-- ==== Sys2Proof/Word.lean ====
section
/-! DEFINITION. The word types of the machine (00_scope.md R8 to R10, R20, R21). Registers and memory bytes are
unsigned numbers of fixed width; arithmetic that wraps is `BitVec` arithmetic. -/

namespace Sys2Proof

/-- A memory byte or a general register (00_scope.md R8, R9). -/
abbrev Byte := BitVec 8

/-- The address register, the program counter, a stack entry, an instruction word (00_scope.md R10, 30_encoding.md R110). -/
abbrev Word := BitVec 16

/-- The 12-bit immediate `nnn` (30_encoding.md R113). -/
abbrev Addr := BitVec 12

/-- The index of one of V0..VF (00_scope.md R9, 30_encoding.md R114). -/
abbrev Reg := Fin 16

/-- The index of one of the sixteen keys (00_scope.md R12). -/
abbrev Key := Fin 16

end Sys2Proof
end

