-- ==== Sys2Proof/Syntax.lean ====
section
/-! DEFINITION. The instructions: one constructor per row of spec/opcode_table.json, in the table's order
(30_encoding.md R129), with the operand fields of R111 to R114. Bits that a row does not examine (`_` in its
pattern) are no operand. The counts `n` of SCD and DRW are numbers, of which an instruction word can hold 0 to 15
(WellFormed.lean). -/

namespace Sys2Proof

inductive Instr where
  /-- 00E0 CLS: clear the framebuffer (R160). -/
  | cls
  /-- 00EE RET: return from a subroutine (R201). -/
  | ret
  /-- 00FB SCR: scroll right by 4 (R162). -/
  | scr
  /-- 00FC SCL: scroll left by 4 (R163). -/
  | scl
  /-- 00FD EXIT: halt execution (R202). -/
  | exit
  /-- 00FE LOW: low resolution (R164). -/
  | low
  /-- 00FF HIGH: high resolution (R165). -/
  | high
  /-- 00CN SCD n: scroll down by n (R161). -/
  | scd (n : Nat)
  /-- 1NNN JP nnn (R203). -/
  | jp (nnn : Addr)
  /-- 2NNN CALL nnn (R204). -/
  | call (nnn : Addr)
  /-- 3XNN SE Vx, nn: skip if equal (R205). -/
  | seImm (x : Reg) (nn : Byte)
  /-- 4XNN SNE Vx, nn: skip if not equal (R206). -/
  | sneImm (x : Reg) (nn : Byte)
  /-- 5XY_ SE Vx, Vy (R207). -/
  | seReg (x y : Reg)
  /-- 6XNN LD Vx, nn (R251). -/
  | ldImm (x : Reg) (nn : Byte)
  /-- 7XNN ADD Vx, nn, no flag (R252). -/
  | addImm (x : Reg) (nn : Byte)
  /-- 8XY0 LD Vx, Vy (R253). -/
  | ldReg (x y : Reg)
  /-- 8XY1 OR Vx, Vy (R254). -/
  | orReg (x y : Reg)
  /-- 8XY2 AND Vx, Vy (R255). -/
  | andReg (x y : Reg)
  /-- 8XY3 XOR Vx, Vy (R256). -/
  | xorReg (x y : Reg)
  /-- 8XY4 ADD Vx, Vy, carry in VF (R258). -/
  | addReg (x y : Reg)
  /-- 8XY5 SUB Vx, Vy, no-borrow in VF (R259). -/
  | subReg (x y : Reg)
  /-- 8XY6 SHR Vx, Vy (R260). -/
  | shr (x y : Reg)
  /-- 8XY7 SUBN Vx, Vy, no-borrow in VF (R261). -/
  | subn (x y : Reg)
  /-- 8XYE SHL Vx, Vy (R262). -/
  | shl (x y : Reg)
  /-- 9XY_ SNE Vx, Vy (R208). -/
  | sneReg (x y : Reg)
  /-- ANNN LD I, nnn (R301). -/
  | ldI (nnn : Addr)
  /-- BNNN JP V0, nnn (R209). -/
  | jpV0 (nnn : Addr)
  /-- CXNN RND Vx, nn (R263). -/
  | rnd (x : Reg) (nn : Byte)
  /-- DXYN DRW Vx, Vy, n (R166). -/
  | drw (x y : Reg) (n : Nat)
  /-- EX9E SKP Vx: skip if the key is down (R351). -/
  | skp (x : Reg)
  /-- EXA1 SKNP Vx: skip if the key is up (R352). -/
  | sknp (x : Reg)
  /-- FX07 LD Vx, DT (R353). -/
  | ldVxDT (x : Reg)
  /-- FX0A LD Vx, K: wait for a key (R356). -/
  | ldVxK (x : Reg)
  /-- FX15 LD DT, Vx (R354). -/
  | ldDT (x : Reg)
  /-- FX18 LD ST, Vx (R355). -/
  | ldST (x : Reg)
  /-- FX1E ADD I, Vx, range flag in VF (R302). -/
  | addI (x : Reg)
  /-- FX29 LD F, Vx: low-resolution glyph address (R303). -/
  | ldF (x : Reg)
  /-- FX30 LD HF, Vx: high-resolution glyph address (R304). -/
  | ldHF (x : Reg)
  /-- FX33 LD B, Vx: store BCD (R305). -/
  | ldB (x : Reg)
  /-- FX55 LD [I], Vx: store V0..Vx (R306). -/
  | storeRegs (x : Reg)
  /-- FX65 LD Vx, [I]: load V0..Vx (R307). -/
  | loadRegs (x : Reg)
  /-- FX75 LD R, Vx: save V0..Vx to the user flags (R308). -/
  | saveFlags (x : Reg)
  /-- FX85 LD Vx, R: restore V0..Vx from the user flags (R309). -/
  | restoreFlags (x : Reg)
  deriving DecidableEq, Repr

end Sys2Proof
end

