-- ==== Sys2Proof/WellFormed.lean ====
section
/-! DEFINITION. Which instructions an instruction word can hold. Register indices, `nn` and `nnn` are of their field's
width by type, and every value of theirs is legal (30_encoding.md R113, R114); the checks left are those of the
counts `n`, 4 bits each (R113). -/

namespace Sys2Proof

/-- `n` fits its 4-bit field (30_encoding.md R113). -/
def countOk (n : Nat) : Bool := decide (n < 16)

/-- The instruction fits its instruction word. -/
def Instr.wf : Instr → Bool
  | .scd n | .drw _ _ n => countOk n
  | .cls | .ret | .scr | .scl | .exit | .low | .high => true
  | .jp _ | .call _ | .ldI _ | .jpV0 _ => true
  | .seImm _ _ | .sneImm _ _ | .ldImm _ _ | .addImm _ _ | .rnd _ _ => true
  | .seReg _ _ | .sneReg _ _ | .ldReg _ _ | .orReg _ _ | .andReg _ _ | .xorReg _ _ => true
  | .addReg _ _ | .subReg _ _ | .shr _ _ | .subn _ _ | .shl _ _ => true
  | .skp _ | .sknp _ | .ldVxDT _ | .ldVxK _ | .ldDT _ | .ldST _ => true
  | .addI _ | .ldF _ | .ldHF _ | .ldB _ => true
  | .storeRegs _ | .loadRegs _ | .saveFlags _ | .restoreFlags _ => true

end Sys2Proof
end

