-- ==== Sys2Proof/Decode.lean ====
section
/-! DEFINITION. Decoding: a total function from any 16-bit word to one instruction or a miss (30_encoding.md R121),
by the dispatch of R122 to R127: the top nibble selects, and groups 0, 8, E and F take a secondary key. A miss is
named by its group. After it the encoder, written from the patterns of the same tables. -/

namespace Sys2Proof

/-- Why a word is no instruction: its group and the secondary key that group does not have (30_encoding.md R130),
or fewer bytes than the two of an instruction (only where a caller hands the decoder fewer). -/
inductive Miss where
  | group0 (nn : Byte)
  | group8 (n : BitVec 4)
  | groupE (nn : Byte)
  | groupF (nn : Byte)
  | truncated
  deriving DecidableEq, Repr

/-- Two bytes as a word, the first the high byte (20_memory.md R81). -/
def joinBytes (hi lo : Byte) : Word := hi ++ lo

/-- The byte of a word that stands at the lower address (20_memory.md R81). -/
def highByte (w : Word) : Byte := w.extractLsb' 8 8

/-- The byte of a word that stands at the higher address. -/
def lowByte (w : Word) : Byte := w.extractLsb' 0 8

/-- g = w[15:12] (30_encoding.md R111). -/
def group (w : Word) : BitVec 4 := w.extractLsb' 12 4

/-- x = w[11:8] (30_encoding.md R111). -/
def xOf (w : Word) : Reg := (w.extractLsb' 8 4).toFin

/-- y = w[7:4] (30_encoding.md R111). -/
def yOf (w : Word) : Reg := (w.extractLsb' 4 4).toFin

/-- n = w[3:0] (30_encoding.md R111). -/
def nOf (w : Word) : BitVec 4 := w.extractLsb' 0 4

/-- nn = w[7:0] (30_encoding.md R111). -/
def nnOf (w : Word) : Byte := w.extractLsb' 0 8

/-- nnn = w[11:0] (30_encoding.md R111). -/
def nnnOf (w : Word) : Addr := w.extractLsb' 0 12

/-- Group 0, secondary key `nn`; the x nibble is not examined (30_encoding.md R123). -/
def decodeGroup0 (w : Word) : Except Miss Instr :=
  if w.extractLsb' 4 4 = 0xC#4 then .ok (.scd (nOf w).toNat)
  else if nnOf w = 0xE0#8 then .ok .cls
  else if nnOf w = 0xEE#8 then .ok .ret
  else if nnOf w = 0xFB#8 then .ok .scr
  else if nnOf w = 0xFC#8 then .ok .scl
  else if nnOf w = 0xFD#8 then .ok .exit
  else if nnOf w = 0xFE#8 then .ok .low
  else if nnOf w = 0xFF#8 then .ok .high
  else .error (.group0 (nnOf w))

/-- Group 8, secondary key `n` (30_encoding.md R124). -/
def decodeGroup8 (w : Word) : Except Miss Instr :=
  if nOf w = 0x0#4 then .ok (.ldReg (xOf w) (yOf w))
  else if nOf w = 0x1#4 then .ok (.orReg (xOf w) (yOf w))
  else if nOf w = 0x2#4 then .ok (.andReg (xOf w) (yOf w))
  else if nOf w = 0x3#4 then .ok (.xorReg (xOf w) (yOf w))
  else if nOf w = 0x4#4 then .ok (.addReg (xOf w) (yOf w))
  else if nOf w = 0x5#4 then .ok (.subReg (xOf w) (yOf w))
  else if nOf w = 0x6#4 then .ok (.shr (xOf w) (yOf w))
  else if nOf w = 0x7#4 then .ok (.subn (xOf w) (yOf w))
  else if nOf w = 0xE#4 then .ok (.shl (xOf w) (yOf w))
  else .error (.group8 (nOf w))

/-- Group E, secondary key `nn` (30_encoding.md R125). -/
def decodeGroupE (w : Word) : Except Miss Instr :=
  if nnOf w = 0x9E#8 then .ok (.skp (xOf w))
  else if nnOf w = 0xA1#8 then .ok (.sknp (xOf w))
  else .error (.groupE (nnOf w))

/-- Group F, secondary key `nn` (30_encoding.md R126). -/
def decodeGroupF (w : Word) : Except Miss Instr :=
  if nnOf w = 0x07#8 then .ok (.ldVxDT (xOf w))
  else if nnOf w = 0x0A#8 then .ok (.ldVxK (xOf w))
  else if nnOf w = 0x15#8 then .ok (.ldDT (xOf w))
  else if nnOf w = 0x18#8 then .ok (.ldST (xOf w))
  else if nnOf w = 0x1E#8 then .ok (.addI (xOf w))
  else if nnOf w = 0x29#8 then .ok (.ldF (xOf w))
  else if nnOf w = 0x30#8 then .ok (.ldHF (xOf w))
  else if nnOf w = 0x33#8 then .ok (.ldB (xOf w))
  else if nnOf w = 0x55#8 then .ok (.storeRegs (xOf w))
  else if nnOf w = 0x65#8 then .ok (.loadRegs (xOf w))
  else if nnOf w = 0x75#8 then .ok (.saveFlags (xOf w))
  else if nnOf w = 0x85#8 then .ok (.restoreFlags (xOf w))
  else .error (.groupF (nnOf w))

/-- Primary dispatch on the top nibble (30_encoding.md R121, R122, R127). -/
def decodeWord (w : Word) : Except Miss Instr :=
  match (group w).toNat with
  | 0x0 => decodeGroup0 w
  | 0x1 => .ok (.jp (nnnOf w))
  | 0x2 => .ok (.call (nnnOf w))
  | 0x3 => .ok (.seImm (xOf w) (nnOf w))
  | 0x4 => .ok (.sneImm (xOf w) (nnOf w))
  | 0x5 => .ok (.seReg (xOf w) (yOf w))
  | 0x6 => .ok (.ldImm (xOf w) (nnOf w))
  | 0x7 => .ok (.addImm (xOf w) (nnOf w))
  | 0x8 => decodeGroup8 w
  | 0x9 => .ok (.sneReg (xOf w) (yOf w))
  | 0xA => .ok (.ldI (nnnOf w))
  | 0xB => .ok (.jpV0 (nnnOf w))
  | 0xC => .ok (.rnd (xOf w) (nnOf w))
  | 0xD => .ok (.drw (xOf w) (yOf w) (nOf w).toNat)
  | 0xE => decodeGroupE w
  | _ => decodeGroupF w

/-- Decoding from bytes as they stand in memory: every instruction is two bytes, the high byte first
(30_encoding.md R110), so what follows them is left over. -/
def decodeBytes : List Byte → Except Miss (Instr × List Byte)
  | hi :: lo :: rest =>
    match decodeWord (joinBytes hi lo) with
    | .ok i => .ok (i, rest)
    | .error m => .error m
  | _ => .error .truncated

/-- The bytes of an instruction as the hardware stores them: 16 bits, of which those above the `nbits` the table gives
are 0, the high byte at the lower address (30_encoding.md R110). -/
def tableBytes (nbits w : Nat) : List Byte :=
  [highByte (BitVec.ofNat 16 (w % 2 ^ nbits)), lowByte (BitVec.ofNat 16 (w % 2 ^ nbits))]

/-- What the decoder reads from the instruction whose bits are `w`, numbered as spec/opcode_table.json numbers them. -/
def decodeTableWord (nbits w : Nat) : Option Instr :=
  match decodeBytes (tableBytes nbits w) with
  | .ok (i, _) => some i
  | .error _ => none

/-! ## The encoder -/

/-- A word of the form g x y n. -/
def packXYN (g : BitVec 4) (x y : Reg) (n : BitVec 4) : Word :=
  g ++ BitVec.ofFin (w := 4) x ++ BitVec.ofFin (w := 4) y ++ n

/-- A word of the form g x nn. -/
def packXNN (g : BitVec 4) (x : Reg) (nn : Byte) : Word := g ++ BitVec.ofFin (w := 4) x ++ nn

/-- A word of the form g nnn. -/
def packNNN (g : BitVec 4) (nnn : Addr) : Word := g ++ nnn

/-- The word of an instruction, its bits as the patterns of 30_encoding.md R129 place them; a bit that the row does not
examine is 0. Of a count that does not fit (WellFormed.lean) only the low 4 bits are kept. -/
def encode : Instr → Word
  | .cls => 0x00E0#16
  | .ret => 0x00EE#16
  | .scr => 0x00FB#16
  | .scl => 0x00FC#16
  | .exit => 0x00FD#16
  | .low => 0x00FE#16
  | .high => 0x00FF#16
  | .scd n => packXYN 0x0 0x0 0xC (BitVec.ofNat 4 n)
  | .jp nnn => packNNN 0x1 nnn
  | .call nnn => packNNN 0x2 nnn
  | .seImm x nn => packXNN 0x3 x nn
  | .sneImm x nn => packXNN 0x4 x nn
  | .seReg x y => packXYN 0x5 x y 0x0
  | .ldImm x nn => packXNN 0x6 x nn
  | .addImm x nn => packXNN 0x7 x nn
  | .ldReg x y => packXYN 0x8 x y 0x0
  | .orReg x y => packXYN 0x8 x y 0x1
  | .andReg x y => packXYN 0x8 x y 0x2
  | .xorReg x y => packXYN 0x8 x y 0x3
  | .addReg x y => packXYN 0x8 x y 0x4
  | .subReg x y => packXYN 0x8 x y 0x5
  | .shr x y => packXYN 0x8 x y 0x6
  | .subn x y => packXYN 0x8 x y 0x7
  | .shl x y => packXYN 0x8 x y 0xE
  | .sneReg x y => packXYN 0x9 x y 0x0
  | .ldI nnn => packNNN 0xA nnn
  | .jpV0 nnn => packNNN 0xB nnn
  | .rnd x nn => packXNN 0xC x nn
  | .drw x y n => packXYN 0xD x y (BitVec.ofNat 4 n)
  | .skp x => packXNN 0xE x 0x9E
  | .sknp x => packXNN 0xE x 0xA1
  | .ldVxDT x => packXNN 0xF x 0x07
  | .ldVxK x => packXNN 0xF x 0x0A
  | .ldDT x => packXNN 0xF x 0x15
  | .ldST x => packXNN 0xF x 0x18
  | .addI x => packXNN 0xF x 0x1E
  | .ldF x => packXNN 0xF x 0x29
  | .ldHF x => packXNN 0xF x 0x30
  | .ldB x => packXNN 0xF x 0x33
  | .storeRegs x => packXNN 0xF x 0x55
  | .loadRegs x => packXNN 0xF x 0x65
  | .saveFlags x => packXNN 0xF x 0x75
  | .restoreFlags x => packXNN 0xF x 0x85

/-! ## The opcode map as a table -/

/-- One row of the opcode map of 30_encoding.md R129: the row of `w` where `w &&& mask = value`, and the instruction it
then is. `decodeWord` does not read the table; that the two agree is a statement about them. -/
structure OpcodeRow where
  mask  : Word
  value : Word
  build : Word → Instr

/-- The row selects the word (30_encoding.md R129). -/
def OpcodeRow.selects (r : OpcodeRow) (w : Word) : Bool := w &&& r.mask = r.value

/-- Rows CLS to SCD of 30_encoding.md R129. -/
def opcodeRowsGroup0 : List OpcodeRow := [
  ⟨0xF0FF, 0x00E0, fun _ => .cls⟩,
  ⟨0xF0FF, 0x00EE, fun _ => .ret⟩,
  ⟨0xF0FF, 0x00FB, fun _ => .scr⟩,
  ⟨0xF0FF, 0x00FC, fun _ => .scl⟩,
  ⟨0xF0FF, 0x00FD, fun _ => .exit⟩,
  ⟨0xF0FF, 0x00FE, fun _ => .low⟩,
  ⟨0xF0FF, 0x00FF, fun _ => .high⟩,
  ⟨0xF0F0, 0x00C0, fun w => .scd (nOf w).toNat⟩]

/-- Rows JP to ADD Vx, nn of 30_encoding.md R129. -/
def opcodeRowsJumps : List OpcodeRow := [
  ⟨0xF000, 0x1000, fun w => .jp (nnnOf w)⟩,
  ⟨0xF000, 0x2000, fun w => .call (nnnOf w)⟩,
  ⟨0xF000, 0x3000, fun w => .seImm (xOf w) (nnOf w)⟩,
  ⟨0xF000, 0x4000, fun w => .sneImm (xOf w) (nnOf w)⟩,
  ⟨0xF000, 0x5000, fun w => .seReg (xOf w) (yOf w)⟩,
  ⟨0xF000, 0x6000, fun w => .ldImm (xOf w) (nnOf w)⟩,
  ⟨0xF000, 0x7000, fun w => .addImm (xOf w) (nnOf w)⟩]

/-- Rows LD Vx, Vy to SNE Vx, Vy of 30_encoding.md R129. -/
def opcodeRowsGroup8 : List OpcodeRow := [
  ⟨0xF00F, 0x8000, fun w => .ldReg (xOf w) (yOf w)⟩,
  ⟨0xF00F, 0x8001, fun w => .orReg (xOf w) (yOf w)⟩,
  ⟨0xF00F, 0x8002, fun w => .andReg (xOf w) (yOf w)⟩,
  ⟨0xF00F, 0x8003, fun w => .xorReg (xOf w) (yOf w)⟩,
  ⟨0xF00F, 0x8004, fun w => .addReg (xOf w) (yOf w)⟩,
  ⟨0xF00F, 0x8005, fun w => .subReg (xOf w) (yOf w)⟩,
  ⟨0xF00F, 0x8006, fun w => .shr (xOf w) (yOf w)⟩,
  ⟨0xF00F, 0x8007, fun w => .subn (xOf w) (yOf w)⟩,
  ⟨0xF00F, 0x800E, fun w => .shl (xOf w) (yOf w)⟩,
  ⟨0xF000, 0x9000, fun w => .sneReg (xOf w) (yOf w)⟩]

/-- Rows LD I to SKNP of 30_encoding.md R129. -/
def opcodeRowsMiddle : List OpcodeRow := [
  ⟨0xF000, 0xA000, fun w => .ldI (nnnOf w)⟩,
  ⟨0xF000, 0xB000, fun w => .jpV0 (nnnOf w)⟩,
  ⟨0xF000, 0xC000, fun w => .rnd (xOf w) (nnOf w)⟩,
  ⟨0xF000, 0xD000, fun w => .drw (xOf w) (yOf w) (nOf w).toNat⟩,
  ⟨0xF0FF, 0xE09E, fun w => .skp (xOf w)⟩,
  ⟨0xF0FF, 0xE0A1, fun w => .sknp (xOf w)⟩]

/-- Rows LD Vx, DT to LD Vx, R of 30_encoding.md R129. -/
def opcodeRowsGroupF : List OpcodeRow := [
  ⟨0xF0FF, 0xF007, fun w => .ldVxDT (xOf w)⟩,
  ⟨0xF0FF, 0xF00A, fun w => .ldVxK (xOf w)⟩,
  ⟨0xF0FF, 0xF015, fun w => .ldDT (xOf w)⟩,
  ⟨0xF0FF, 0xF018, fun w => .ldST (xOf w)⟩,
  ⟨0xF0FF, 0xF01E, fun w => .addI (xOf w)⟩,
  ⟨0xF0FF, 0xF029, fun w => .ldF (xOf w)⟩,
  ⟨0xF0FF, 0xF030, fun w => .ldHF (xOf w)⟩,
  ⟨0xF0FF, 0xF033, fun w => .ldB (xOf w)⟩,
  ⟨0xF0FF, 0xF055, fun w => .storeRegs (xOf w)⟩,
  ⟨0xF0FF, 0xF065, fun w => .loadRegs (xOf w)⟩,
  ⟨0xF0FF, 0xF075, fun w => .saveFlags (xOf w)⟩,
  ⟨0xF0FF, 0xF085, fun w => .restoreFlags (xOf w)⟩]

/-- The opcode map of 30_encoding.md R129, all 43 rows, in the table's order. -/
def opcodeMap : List OpcodeRow :=
  opcodeRowsGroup0 ++ opcodeRowsJumps ++ opcodeRowsGroup8 ++ opcodeRowsMiddle ++ opcodeRowsGroupF

/-- The row of the opcode map that an instruction's word is selected by, as (mask, value). -/
def Instr.row : Instr → Word × Word
  | .cls => (0xF0FF, 0x00E0)
  | .ret => (0xF0FF, 0x00EE)
  | .scr => (0xF0FF, 0x00FB)
  | .scl => (0xF0FF, 0x00FC)
  | .exit => (0xF0FF, 0x00FD)
  | .low => (0xF0FF, 0x00FE)
  | .high => (0xF0FF, 0x00FF)
  | .scd _ => (0xF0F0, 0x00C0)
  | .jp _ => (0xF000, 0x1000)
  | .call _ => (0xF000, 0x2000)
  | .seImm _ _ => (0xF000, 0x3000)
  | .sneImm _ _ => (0xF000, 0x4000)
  | .seReg _ _ => (0xF000, 0x5000)
  | .ldImm _ _ => (0xF000, 0x6000)
  | .addImm _ _ => (0xF000, 0x7000)
  | .ldReg _ _ => (0xF00F, 0x8000)
  | .orReg _ _ => (0xF00F, 0x8001)
  | .andReg _ _ => (0xF00F, 0x8002)
  | .xorReg _ _ => (0xF00F, 0x8003)
  | .addReg _ _ => (0xF00F, 0x8004)
  | .subReg _ _ => (0xF00F, 0x8005)
  | .shr _ _ => (0xF00F, 0x8006)
  | .subn _ _ => (0xF00F, 0x8007)
  | .shl _ _ => (0xF00F, 0x800E)
  | .sneReg _ _ => (0xF000, 0x9000)
  | .ldI _ => (0xF000, 0xA000)
  | .jpV0 _ => (0xF000, 0xB000)
  | .rnd _ _ => (0xF000, 0xC000)
  | .drw _ _ _ => (0xF000, 0xD000)
  | .skp _ => (0xF0FF, 0xE09E)
  | .sknp _ => (0xF0FF, 0xE0A1)
  | .ldVxDT _ => (0xF0FF, 0xF007)
  | .ldVxK _ => (0xF0FF, 0xF00A)
  | .ldDT _ => (0xF0FF, 0xF015)
  | .ldST _ => (0xF0FF, 0xF018)
  | .addI _ => (0xF0FF, 0xF01E)
  | .ldF _ => (0xF0FF, 0xF029)
  | .ldHF _ => (0xF0FF, 0xF030)
  | .ldB _ => (0xF0FF, 0xF033)
  | .storeRegs _ => (0xF0FF, 0xF055)
  | .loadRegs _ => (0xF0FF, 0xF065)
  | .saveFlags _ => (0xF0FF, 0xF075)
  | .restoreFlags _ => (0xF0FF, 0xF085)

end Sys2Proof
end

