-- ==== Sys2Proof/Machine/Flags.lean ====
section
/-! DEFINITION. Every flag computation of the spec (42_alu.md R250, R257; 43_index_memory.md R302), each on the operands
as read before the instruction's first write (00_scope.md R25). VF receives a flag as the byte 0 or 1. -/

namespace Sys2Proof.Machine

/-- A flag as VF holds it (42_alu.md R250). -/
def flagByte (f : Bool) : Byte := if f then 1 else 0

/-- Carry of `a + b`: the exact sum is above 255 (R257, R258). -/
def carryOut (a b : Byte) : Bool := decide (a.toNat + b.toNat > 255)

/-- No borrow of `a - b`: `a ≥ b` (R257, R259, R261). -/
def noBorrow (a b : Byte) : Bool := decide (a.toNat ≥ b.toNat)

/-- The bit a right shift puts out: bit 0 (R260). -/
def lowBitOut (b : Byte) : Bool := b.getLsbD 0

/-- The bit a left shift puts out: bit 7 (R262). -/
def highBitOut (b : Byte) : Bool := b.getLsbD 7

/-- The exact sum of FX1E is above 0xFFF (43_index_memory.md R302). -/
def pastTop (i : Word) (v : Byte) : Bool := decide (i.toNat + v.toNat > 0xFFF)

end Sys2Proof.Machine
end

