-- ==== Sys2Proof/Config.lean ====
section
/-! DEFINITION. What is fixed when a machine is constructed (10_state.md R52, 00_scope.md R8 to R19), and the free
values: constants with no body, of which nothing can be proved, applied to a counter of State. The font of
R57 is in Machine/Font.lean. -/

namespace Sys2Proof.Config

/-- `MEM_SIZE`: the address space in bytes (00_scope.md R8). -/
abbrev memSize : Nat := 4096

/-- `PROG_BASE`: where programs load and where execution starts (00_scope.md R15). -/
abbrev progBase : Nat := 0x200

/-- The maximum program length, `MEM_SIZE - PROG_BASE` (00_scope.md R15). -/
abbrev maxProgram : Nat := memSize - progBase

/-- `P` = 1/60 s, the I/O period (60_exceptions.md R420). Time is in seconds, exact. -/
def ioPeriod : Rat := mkRat 1 60

/-- One reading of the real-time source: the seconds `num / (den + 1)` that passed since the reading before it
(00_scope.md R19). Every non-negative rational is some reading and no reading is negative (60_exceptions.md R423). -/
structure Reading where
  num : Nat
  den : Nat
  deriving DecidableEq, Repr, Inhabited

/-- The seconds of a reading. -/
def Reading.seconds (r : Reading) : Rat := mkRat r.num (r.den + 1)

/-- FREE VALUE: the `k`-th random byte, where State holds none supplied (00_scope.md R18; DESIGN CHOICE, log 3). -/
opaque freeRandomByte : Nat → Byte

/-- FREE VALUE: the `k`-th elapsed time, where State holds none supplied (00_scope.md R19; DESIGN CHOICE, log 4). -/
opaque freeElapsed : Nat → Reading

/-- `CPU_HZ`, left OPEN (00_scope.md R14). It only throttles iterations in real time and changes no rule of the
machine (60_exceptions.md R425), so no definition reads it: what it does is already in the free elapsed time. -/
opaque cpuHz : Nat

end Sys2Proof.Config
end

