-- ==== Sys2Proof/Machine/State.lean ====
section
/-! DEFINITION. The state of the machine (10_state.md R30), as plain data, and its value at power-on (R53). Beside the
spec's state it holds the model's own: the scheduler's place in its loop, the host inputs still to come, the outputs
sent, and the free values supplied. -/

namespace Sys2Proof.Machine

/-- The resolution mode of the framebuffer (10_state.md R45, R46). -/
inductive Mode where
  | lo
  | hi
  deriving DecidableEq, Repr

/-- The framebuffer (10_state.md R45, R46): `rows` lists the rows from the top, each listing its pixels from the left,
`true` on. That there are H(mode) rows of W(mode) pixels is the invariant `Framebuffer.wf`. -/
structure Framebuffer where
  mode  : Mode
  rows  : List (List Bool)
  dirty : Bool
  deriving DecidableEq, Repr

/-- The fault codes (10_state.md R47, 60_exceptions.md R401 to R403). -/
inductive FaultCode where
  | stackOverflow
  | stackUnderflow
  | badKeyIndex
  deriving DecidableEq, Repr

/-- `STATUS` (10_state.md R47). -/
inductive Status where
  | idle
  | running
  | halted
  | faulted (code : FaultCode)
  deriving DecidableEq, Repr

/-- The payload of a Status output (60_exceptions.md R404, R440, R446). -/
inductive Report where
  | halted
  | faulted (code : FaultCode) (a w : Word)
  | loadError
  deriving DecidableEq, Repr

/-- What the core sends to its host and collaborators (60_exceptions.md R440). -/
inductive Output where
  /-- R442: the pixel buffer, row-major, one byte a pixel, and the grid dimensions. -/
  | redraw (pixels : List Byte) (width height : Nat)
  /-- R443. -/
  | resolutionChanged (mode : Mode)
  /-- R444. -/
  | toneElapsed
  /-- R445: the address and the word of the decode miss. -/
  | decodeMiss (a w : Word)
  /-- R446. -/
  | status (report : Report)
  deriving DecidableEq, Repr

/-- What the host sends to the core (60_exceptions.md R440). -/
inductive HostEvent where
  /-- R441. -/
  | keySet (k : Key) (down : Bool)
  /-- R447. -/
  | reset
  /-- R448. -/
  | cancel
  /-- 70_reset_and_hazards.md R461. -/
  | start
  /-- 70_reset_and_hazards.md R464. -/
  | load (bytes : List Byte)
  deriving DecidableEq, Repr

/-- Whose transition comes next (60_exceptions.md R441: the host may act between any two transitions of the core). -/
inductive Turn where
  | core
  | host (e : HostEvent)
  deriving DecidableEq, Repr

/-- Reasons for which the machine stops with a fault. There is none: no memory access, no PC value, no word and no
arithmetic faults (60_exceptions.md R408), and a fault of R400 is a next state, with `Status.faulted` in it. -/
inductive Fault
  deriving DecidableEq, Repr

/-- Reasons for which a step has no meaning. -/
inductive Refusal where
  /-- Raised by a refused arm of `exec`: an instruction that has no meaning yet (no arm does). Safe. -/
  | notModelled (mnemonic : String)
  /-- Raised by `deliver` where the host loads a program while STATUS is Running: the transaction is refused
  (70_reset_and_hazards.md R464, 93_implementation_defined.md U28). Safe: the model stops. -/
  | loadWhileRunning
  deriving DecidableEq, Repr

/-- Where a running engine stands in the loop of 60_exceptions.md R420 (DESIGN CHOICE, log 6: the loop cut into
transitions). A stopped engine stands at `top`, where its next run begins. -/
inductive LoopPlace where
  /-- A tick comes next while ACC holds a period, else the start of the next iteration. -/
  | top
  /-- The iteration has begun: cancellation was checked, the queued reset is applied, and `cpu_step()` comes next. -/
  | step
  /-- `cpu_step()` has left STATUS = Running: `t1 <- now()` comes next. -/
  | clock
  deriving DecidableEq, Repr

structure State where
  /-- MEM: (address, byte) pairs in canonical form (Machine/Memory.lean); R49. -/
  mem   : List Host.Cell
  /-- V0..VF; R31. -/
  v     : Vector Byte 16
  /-- I; R38. -/
  i     : Word
  /-- PC; R35. -/
  pc    : Word
  /-- STACK, entry 0 the oldest; R39. -/
  stack : Vector Word 16
  /-- SP, the number of entries present, 0 to 16; R39. -/
  sp    : Fin 17
  /-- UF, the user flags, USER_FLAGS_COUNT = 16 entries; R44. -/
  uf    : Vector Byte 16
  /-- DT, the delay timer; R42. -/
  dt    : Byte
  /-- ST, the sound timer; R42. -/
  st    : Byte
  /-- KEY, true where the key is down; R43. -/
  key   : Vector Bool 16
  /-- FB; R45. -/
  fb    : Framebuffer
  /-- STATUS; R47. -/
  status : Status
  /-- ACC, in seconds; R48. -/
  acc   : Rat
  /-- The loop's place (60_exceptions.md R420). -/
  place : LoopPlace
  /-- A reset request is queued (60_exceptions.md R447). -/
  resetQueued : Bool
  /-- Cancel has been requested (60_exceptions.md R421). -/
  cancelRequested : Bool
  /-- The model's own: whose turns come next. Where none is listed it is the core's. -/
  turns : List Turn
  /-- The model's own: the outputs sent, oldest first (60_exceptions.md R440). -/
  outputs : List Output
  /-- The model's own: the random bytes the source gives next (00_scope.md R18). Where none is listed the draw is
  `Config.freeRandomByte`. -/
  randoms : List Byte
  /-- The model's own: the elapsed times the clock gives next (00_scope.md R19). Where none is listed the draw is
  `Config.freeElapsed`. -/
  readings : List Config.Reading
  /-- The model's own: how many free values have been drawn. -/
  draws : Nat
  deriving DecidableEq, Repr

/-- The machine at power-on (10_state.md R53): memory as constructed (the font, then zeros: what an unlisted cell
reads as), so nothing is listed. -/
def State.reset : State where
  mem := []
  v := Vector.replicate 16 0
  i := 0
  pc := 0x200
  stack := Vector.replicate 16 0
  sp := 0
  uf := Vector.replicate 16 0
  dt := 0
  st := 0
  key := Vector.replicate 16 false
  fb := ⟨.lo, List.replicate 32 (List.replicate 64 false), true⟩
  status := .idle
  acc := 0
  place := .top
  resetQueued := false
  cancelRequested := false
  turns := []
  outputs := []
  randoms := []
  readings := []
  draws := 0

end Sys2Proof.Machine
end

