-- ==== Sys2Proof/Machine/Framebuffer.lean ====
section
/-! DEFINITION. The framebuffer controller: the primitives of 40_display.md R150 to R159. -/

namespace Sys2Proof.Machine

/-- W(mode) (10_state.md R46). -/
def Mode.width : Mode → Nat
  | .lo => 64
  | .hi => 128

/-- H(mode) (10_state.md R46). -/
def Mode.height : Mode → Nat
  | .lo => 32
  | .hi => 64

/-- A row of `w` pixels, all off. -/
def blankRow (w : Nat) : List Bool := List.replicate w false

/-- A grid of the mode's size, all pixels off. -/
def Mode.blank (m : Mode) : List (List Bool) := List.replicate m.height (blankRow m.width)

/-- The grid has the size of its mode (10_state.md R46). -/
abbrev Framebuffer.wf (fb : Framebuffer) : Prop :=
  fb.rows.length = fb.mode.height ∧ ∀ r ∈ fb.rows, r.length = fb.mode.width

/-- `get(x, y)`, coordinates wrapped modulo the grid (R150, R152). -/
def Framebuffer.get (fb : Framebuffer) (x y : Nat) : Bool :=
  (fb.rows.getD (y % fb.mode.height) []).getD (x % fb.mode.width) false

/-- `clear()` (R151). -/
def Framebuffer.clear (fb : Framebuffer) : Framebuffer := { fb with rows := fb.mode.blank, dirty := true }

/-- `toggle(x, y)` without its result (R153); the result is the pixel's state after it. -/
def Framebuffer.toggle (fb : Framebuffer) (x y : Nat) : Framebuffer :=
  { fb with
    rows := fb.rows.modify (y % fb.mode.height) (fun r => r.modify (x % fb.mode.width) not)
    dirty := true }

/-- The grid after an actual mode change (R154): the new size, all off, dirty. -/
def Framebuffer.reallocated (m : Mode) : Framebuffer := ⟨m, m.blank, true⟩

/-- The framebuffer with new pixels, marked dirty; `n = 0` rows or columns of scroll is a no-op (R155 to R158). -/
def Framebuffer.scrolled (fb : Framebuffer) (n : Nat) (rows : List (List Bool)) : Framebuffer :=
  if n = 0 then fb else { fb with rows := rows, dirty := true }

/-- `scroll_down(n)` (R155). -/
def Framebuffer.scrollDown (fb : Framebuffer) (n : Nat) : Framebuffer :=
  fb.scrolled n ((List.replicate n (blankRow fb.mode.width) ++ fb.rows).take fb.mode.height)

/-- `scroll_up(n)`, part of the controller that no instruction reaches (R156). -/
def Framebuffer.scrollUp (fb : Framebuffer) (n : Nat) : Framebuffer :=
  fb.scrolled n ((fb.rows ++ List.replicate n (blankRow fb.mode.width)).drop n)

/-- `scroll_right(n)` (R157). -/
def Framebuffer.scrollRight (fb : Framebuffer) (n : Nat) : Framebuffer :=
  fb.scrolled n (fb.rows.map fun r => (blankRow n ++ r).take fb.mode.width)

/-- `scroll_left(n)` (R158). -/
def Framebuffer.scrollLeft (fb : Framebuffer) (n : Nat) : Framebuffer :=
  fb.scrolled n (fb.rows.map fun r => (r ++ blankRow n).drop n)

/-- The pixel buffer of a Redraw: H×W bytes, row-major, 1 on and 0 off (R159). -/
def Framebuffer.pixelBytes (fb : Framebuffer) : List Byte :=
  fb.rows.flatMap fun r => r.map fun on => if on then 1 else 0

/-- Toggles the sprite cells listed, each a (column, row) from the origin (`ox`, `oy`), in order, and tells whether a
toggle turned a pixel off (R153, R166, R169, R170). -/
def Framebuffer.toggleAll (fb : Framebuffer) (ox oy : Nat) : List (Nat × Nat) → Framebuffer × Bool
  | [] => (fb, false)
  | (c, r) :: cells =>
    let fb' := fb.toggle (ox + c) (oy + r)
    let rest := fb'.toggleAll ox oy cells
    (rest.1, !fb'.get (ox + c) (oy + r) || rest.2)

end Sys2Proof.Machine
end

