-- ==== Sys2Proof/Machine/Font.lean ====
section
/-! DEFINITION. The font (10_state.md R57) and what memory holds at power-on (10_state.md R53, 70_reset_and_hazards.md R460). -/

namespace Sys2Proof

/-- `FONT_LO`, glyphs 0 to 7 (10_state.md R57). -/
def Config.fontLow : List Byte :=
  [0xF0, 0x90, 0x90, 0x90, 0xF0,  0x20, 0x60, 0x20, 0x20, 0x70,
   0xF0, 0x10, 0xF0, 0x80, 0xF0,  0xF0, 0x10, 0xF0, 0x10, 0xF0,
   0x90, 0x90, 0xF0, 0x10, 0x10,  0xF0, 0x80, 0xF0, 0x10, 0xF0,
   0xF0, 0x80, 0xF0, 0x90, 0xF0,  0xF0, 0x10, 0x20, 0x40, 0x40]

/-- `FONT_LO`, glyphs 8 to F (10_state.md R57). -/
def Config.fontHigh : List Byte :=
  [0xF0, 0x90, 0xF0, 0x90, 0xF0,  0xF0, 0x90, 0xF0, 0x10, 0xF0,
   0xF0, 0x90, 0xF0, 0x90, 0x90,  0xE0, 0x90, 0xE0, 0x90, 0xE0,
   0xF0, 0x80, 0x80, 0x80, 0xF0,  0xE0, 0x90, 0x90, 0x90, 0xE0,
   0xF0, 0x80, 0xF0, 0x80, 0xF0,  0xF0, 0x80, 0xF0, 0x80, 0x80]

/-- `FONT_LO`, 80 bytes, the default of 10_state.md R57 (PRESUMED: the spec marks it as general knowledge; log 5). A
machine built with another font is the state that `State.withFont` gives. -/
def Config.fontLo : List Byte := Config.fontLow ++ Config.fontHigh

/-- What memory holds at power-on: the font at 0..79 and 0 elsewhere (10_state.md R53). It is what a cell that State
does not list reads as. -/
def Machine.Memory.initial (a : Nat) : Byte := Config.fontLo.getD a 0

end Sys2Proof
end

