-- ==== Sys2Proof/Machine/Memory.lean ====
section
/-! DEFINITION. The memory as a list of cells in one canonical form, and its two primitives. -/

namespace Sys2Proof.Machine

/-- MEM (10_state.md R49): the cells whose byte is not what memory holds at power-on. -/
abbrev Memory := List Host.Cell

/-- The canonical form: addresses strictly rising and inside the address space, and no cell that holds what an unlisted
address reads as. Equal memories are then equal lists. -/
abbrev Memory.wf (m : Memory) : Prop :=
  m.Pairwise (fun c d => c.1 < d.1) ∧ ∀ c ∈ m, c.1 < Config.memSize ∧ c.2 ≠ Memory.initial c.1

/-- The byte at an address inside the address space. -/
def Memory.read : Memory → Nat → Byte
  | [], a => Memory.initial a
  | (k, b) :: m, a => if k = a then b else Memory.read m a

/-- The cell to list where address `a` holds `b`: none where that is what it reads as unlisted. -/
def Memory.cell (a : Nat) (b : Byte) : Memory := if b = Memory.initial a then [] else [(a, b)]

/-- The memory with `b` at address `a`. -/
def Memory.write : Memory → Nat → Byte → Memory
  | [], a, b => Memory.cell a b
  | (k, c) :: m, a, b =>
    if a < k then Memory.cell a b ++ (k, c) :: m
    else if a = k then Memory.cell a b ++ m
    else (k, c) :: Memory.write m a b

end Sys2Proof.Machine
end

