-- ==== Sys2Proof/Machine/Operands.lean ====
section
/-! DEFINITION. The operand forms of the instructions: immediates, I-relative data addresses, register ranges V0..Vx, key
indices, glyph addresses, digits (30_encoding.md R113, R114; 43_index_memory.md R300). -/

namespace Sys2Proof.Machine

/-- `nnn` zero-extended to 16 bits (30_encoding.md R113). -/
def zextAddr (nnn : Addr) : Word := nnn.setWidth 16

/-- A register value zero-extended to 16 bits. -/
def zextByte (b : Byte) : Word := b.setWidth 16

/-- The address of the `k`-th byte of an I-relative transfer, not yet reduced modulo 4096 (43_index_memory.md R300). -/
def State.dataAddr (s : State) (k : Nat) : Nat := s.i.toNat + k

/-- Entry `k` of `new` for the range 0..x, of `old` above it: what FX65, FX75 and FX85 leave in the registers or flags
they write (30_encoding.md R114). -/
def mergeRange (x : Reg) (new : Fin 16 → Byte) (old : Vector Byte 16) : Vector Byte 16 :=
  Vector.ofFn fun k => if k ≤ x then new k else old.get k

/-- The values of V0..Vx, in order. -/
def State.rangeBytes (s : State) (x : Reg) : List Byte := s.v.toList.take (x.val + 1)

/-- A register value as a key index; none above 0xF (44_timers_keys.md R350). -/
def keyIndex (b : Byte) : Option Key := if h : b.toNat < 16 then some ⟨b.toNat, h⟩ else none

/-- The first key found down, in ascending order (44_timers_keys.md R356). -/
def firstKeyDown (key : Vector Bool 16) : Option Key := (List.finRange 16).find? fun k => key.get k

/-- The address of a glyph of `size` bytes, the digit not masked (43_index_memory.md R303, R304). -/
def glyphAddr (size : Nat) (digit : Byte) : Word := BitVec.ofNat 16 (digit.toNat * size)

/-- The three decimal digits of a byte, hundreds first (43_index_memory.md R305). -/
def bcdDigits (b : Byte) : List Byte :=
  [BitVec.ofNat 8 (b.toNat / 100), BitVec.ofNat 8 (b.toNat / 10 % 10), BitVec.ofNat 8 (b.toNat % 10)]

/-- (width, height, bytes per row) of a sprite (40_display.md R166, R167). -/
def spriteShape (n : Nat) (m : Mode) : Nat × Nat × Nat :=
  if n = 0 ∧ m = .hi then (16, 16, 2) else (8, n, 1)

end Sys2Proof.Machine
end

