-- ==== Sys2Proof/Machine/Ops.lean ====
section
/-! DEFINITION. The named operations over registers, memory, PC and stack that the meanings share, the outputs, the
raising of a fault, the halt, and the reset (the only way out of either). -/

namespace Sys2Proof.Machine

/-! ## Outputs and free values -/

/-- Sends an output (60_exceptions.md R440). -/
def State.emit (s : State) (o : Output) : State := { s with outputs := s.outputs ++ [o] }

/-- The byte `draw rand8()` takes: the next one supplied, else a free value (00_scope.md R18, R24). -/
def State.randomByte (s : State) : Byte := s.randoms.headD (Config.freeRandomByte s.draws)

/-- The state after `draw rand8()`. -/
def State.afterRandom (s : State) : State :=
  { s with randoms := s.randoms.tail, draws := s.draws + 1 }

/-- The elapsed time the clock gives: the next one supplied, else a free value (00_scope.md R19, 60_exceptions.md R423). -/
def State.reading (s : State) : Config.Reading := s.readings.headD (Config.freeElapsed s.draws)

/-- `t1 <- now() ; ACC <- ACC + (t1 - t0)` (60_exceptions.md R420). -/
def State.readClock (s : State) : State :=
  { s with
    acc := s.acc + s.reading.seconds, place := .top,
    readings := s.readings.tail, draws := s.draws + 1 }

/-! ## Registers -/

/-- `V[r]` (00_scope.md R22, 10_state.md R31). -/
def State.reg (s : State) (r : Reg) : Byte := s.v.get r

/-- `V[r] <- b`. -/
def State.setReg (s : State) (r : Reg) (b : Byte) : State := { s with v := s.v.set r b }

/-- The flag register VF (10_state.md R32). -/
def vf : Reg := 0xF

/-- `VF <- flag`, as 0 or 1 (42_alu.md R250). -/
def State.setFlag (s : State) (f : Bool) : State := s.setReg vf (flagByte f)

/-- `I <- a`. -/
def State.setI (s : State) (a : Word) : State := { s with i := a }

/-! ## Memory -/

/-- `MemRead(a, 1)`: the byte at `a mod 4096` (00_scope.md R23, 20_memory.md R84). -/
def State.memRead (s : State) (a : Nat) : Byte := Memory.read s.mem (a % Config.memSize)

/-- `MemWrite(a, 1, b)`: the byte at `a mod 4096` (00_scope.md R23, 20_memory.md R84). -/
def State.memWrite (s : State) (a : Nat) (b : Byte) : State :=
  { s with mem := Memory.write s.mem (a % Config.memSize) b }

/-- Bytes written one after another from `a` on, each address reduced on its own (20_memory.md R84). -/
def State.memWriteList (s : State) (a : Nat) : List Byte → State
  | [] => s
  | b :: bs => (s.memWrite a b).memWriteList (a + 1) bs

/-- The instruction word at `a`, high byte first (20_memory.md R81, 30_encoding.md R120). -/
def State.wordAt (s : State) (a : Word) : Word :=
  joinBytes (s.memRead a.toNat) (s.memRead (a.toNat + 1))

/-! ## Program counter and stack (10_state.md R36, R40, R41) -/

/-- `advance()`. -/
def State.advance (s : State) : State := { s with pc := s.pc + 2 }

/-- `rewind()`. -/
def State.rewind (s : State) : State := { s with pc := s.pc - 2 }

/-- `jump(a)`: masked to 12 bits. -/
def State.jump (s : State) (a : Word) : State := { s with pc := a &&& 0xFFF }

/-- A skip: a second `advance()` where the condition holds (41_control.md R200). -/
def State.skipIf (s : State) (c : Bool) : State := if c then s.advance else s

/-- The address of the instruction whose effect is being performed (60_exceptions.md R404). -/
def State.instrAddr (s : State) : Word := s.pc - 2

/-- RAISING A FAULT (60_exceptions.md R400, R404, R446), the one way an exception is taken: nothing is written but STATUS,
PC keeps its advanced value, and the report says the code, the instruction's address and its word (which still stands
in memory, as the instruction writes nothing). -/
def State.raise (s : State) (code : FaultCode) : State :=
  { s with status := .faulted code }.emit
    (.status (.faulted code s.instrAddr (s.wordAt s.instrAddr)))

/-- The program-initiated halt (60_exceptions.md R406, R446). -/
def State.halt (s : State) : State := { s with status := .halted }.emit (.status .halted)

/-- STATUS after a reset (70_reset_and_hazards.md R462, R468). -/
def Status.afterReset : Status → Status
  | .running => .running
  | .idle | .halted | .faulted _ => .idle

/-- The notice of a reset that takes the mode from Hi to Lo (70_reset_and_hazards.md R462). -/
def State.resetNotice (s : State) : State :=
  if s.fb.mode = .hi then s.emit (.resolutionChanged .lo) else s

/-- THE RESET (70_reset_and_hazards.md R462): there is no return from a fault or a halt, and this is the only way out of
either (60_exceptions.md R413). Memory and the user flags are kept, and a queued request is used up. -/
def State.reinitialise (s : State) : State :=
  { s.resetNotice with
    v := Vector.replicate 16 0, i := 0, pc := 0x200
    sp := 0, stack := Vector.replicate 16 0
    dt := 0, st := 0
    key := Vector.replicate 16 false
    fb := Framebuffer.reallocated .lo
    acc := 0
    status := s.status.afterReset
    place := .top
    resetQueued := false }

/-- A non-empty stack's pop: the entry that comes off and SP after it (10_state.md R41). -/
def State.pop? (s : State) : Option (Word × Fin 17) :=
  if h : s.sp.val = 0 then none
  else some (s.stack.get ⟨s.sp.val - 1, by omega⟩, ⟨s.sp.val - 1, by omega⟩)

/-- A push onto a stack that is not full (10_state.md R40). -/
def State.push? (s : State) (a : Word) : Option State :=
  if h : s.sp.val < 16 then
    some { s with stack := s.stack.set s.sp.val a, sp := ⟨s.sp.val + 1, by omega⟩ }
  else none

/-- `call(a)` (10_state.md R40): the value pushed is the advanced PC. -/
def State.callTo (s : State) (a : Word) : State :=
  match s.push? s.pc with
  | some t => t.jump a
  | none => s.raise .stackOverflow

/-- `return()` (10_state.md R41). -/
def State.returnFrom (s : State) : State :=
  match s.pop? with
  | some (a, sp) => { s with sp := sp }.jump a
  | none => s.raise .stackUnderflow

/-! ## Construction and program load -/

/-- A machine built with the font `font` (10_state.md R52, R57): its bytes at 0..79. -/
def State.withFont (s : State) (font : Vector Byte 80) : State := s.memWriteList 0 font.toList

/-- Program load (70_reset_and_hazards.md R464, R465; 60_exceptions.md R407): too long a program writes no byte. -/
def State.loadProgram (s : State) (bytes : List Byte) : State :=
  if bytes.length ≤ Config.maxProgram then s.memWriteList Config.progBase bytes
  else s.emit (.status .loadError)

end Sys2Proof.Machine
end

