-- ==== Sys2Proof/Machine/Alu.lean ====
section
/-! DEFINITION. Register arithmetic and logic (42_alu.md R250 to R264). Operands are read before the first write and the
writes happen in the order listed (00_scope.md R25), which decides x = F and y = F. -/

namespace Sys2Proof.Machine

/-- 6XNN LD Vx, nn (R251). -/
def execLdImm (x : Reg) (nn : Byte) (s : State) : Host.Outcome State Fault Refusal := .next (s.setReg x nn)

/-- 7XNN ADD Vx, nn (R252): no flag. -/
def execAddImm (x : Reg) (nn : Byte) (s : State) : Host.Outcome State Fault Refusal :=
  .next (s.setReg x (s.reg x + nn))

/-- 8XY0 LD Vx, Vy (R253). -/
def execLdReg (x y : Reg) (s : State) : Host.Outcome State Fault Refusal := .next (s.setReg x (s.reg y))

/-- 8XY1 OR Vx, Vy (R254). -/
def execOrReg (x y : Reg) (s : State) : Host.Outcome State Fault Refusal :=
  .next (s.setReg x (s.reg x ||| s.reg y))

/-- 8XY2 AND Vx, Vy (R255). -/
def execAndReg (x y : Reg) (s : State) : Host.Outcome State Fault Refusal :=
  .next (s.setReg x (s.reg x &&& s.reg y))

/-- 8XY3 XOR Vx, Vy (R256). -/
def execXorReg (x y : Reg) (s : State) : Host.Outcome State Fault Refusal :=
  .next (s.setReg x (s.reg x ^^^ s.reg y))

/-- A result into Vx, then a flag into VF (8XY4, 8XY5, 8XY7: the flag is written second). -/
def State.resultThenFlag (s : State) (x : Reg) (r : Byte) (f : Bool) : State := (s.setReg x r).setFlag f

/-- A flag into VF, then a result into Vx (8XY6, 8XYE: the result is written second). -/
def State.flagThenResult (s : State) (x : Reg) (r : Byte) (f : Bool) : State := (s.setFlag f).setReg x r

/-- 8XY4 ADD Vx, Vy (R258). -/
def execAddReg (x y : Reg) (s : State) : Host.Outcome State Fault Refusal :=
  .next (s.resultThenFlag x (s.reg x + s.reg y) (carryOut (s.reg x) (s.reg y)))

/-- 8XY5 SUB Vx, Vy (R259). -/
def execSubReg (x y : Reg) (s : State) : Host.Outcome State Fault Refusal :=
  .next (s.resultThenFlag x (s.reg x - s.reg y) (noBorrow (s.reg x) (s.reg y)))

/-- 8XY6 SHR Vx, Vy (R260): the operand shifted is Vy. -/
def execShr (x y : Reg) (s : State) : Host.Outcome State Fault Refusal :=
  .next (s.flagThenResult x (s.reg y >>> 1) (lowBitOut (s.reg y)))

/-- 8XY7 SUBN Vx, Vy (R261). -/
def execSubn (x y : Reg) (s : State) : Host.Outcome State Fault Refusal :=
  .next (s.resultThenFlag x (s.reg y - s.reg x) (noBorrow (s.reg y) (s.reg x)))

/-- 8XYE SHL Vx, Vy (R262): the operand shifted is Vy. -/
def execShl (x y : Reg) (s : State) : Host.Outcome State Fault Refusal :=
  .next (s.flagThenResult x (s.reg y <<< 1) (highBitOut (s.reg y)))

/-- CXNN RND Vx, nn (R263): one draw, a free value. -/
def execRnd (x : Reg) (nn : Byte) (s : State) : Host.Outcome State Fault Refusal :=
  .next (s.afterRandom.setReg x (s.randomByte &&& nn))

end Sys2Proof.Machine
end

