-- ==== Sys2Proof/Machine/Control.lean ====
section
/-! DEFINITION. Control transfer, skips and halt (41_control.md R200 to R211). A meaning starts after the fetch: PC holds
the instruction's address plus 2 (10_state.md R35). -/

namespace Sys2Proof.Machine

/-- 00EE RET (R201). -/
def execRet (s : State) : Host.Outcome State Fault Refusal := .next s.returnFrom

/-- 00FD EXIT (R202). -/
def execExit (s : State) : Host.Outcome State Fault Refusal := .next s.halt

/-- 1NNN JP nnn (R203). -/
def execJp (nnn : Addr) (s : State) : Host.Outcome State Fault Refusal := .next (s.jump (zextAddr nnn))

/-- 2NNN CALL nnn (R204). -/
def execCall (nnn : Addr) (s : State) : Host.Outcome State Fault Refusal := .next (s.callTo (zextAddr nnn))

/-- 3XNN SE Vx, nn (R205). -/
def execSeImm (x : Reg) (nn : Byte) (s : State) : Host.Outcome State Fault Refusal :=
  .next (s.skipIf (s.reg x == nn))

/-- 4XNN SNE Vx, nn (R206). -/
def execSneImm (x : Reg) (nn : Byte) (s : State) : Host.Outcome State Fault Refusal :=
  .next (s.skipIf (s.reg x != nn))

/-- 5XY_ SE Vx, Vy (R207). -/
def execSeReg (x y : Reg) (s : State) : Host.Outcome State Fault Refusal :=
  .next (s.skipIf (s.reg x == s.reg y))

/-- 9XY_ SNE Vx, Vy (R208). -/
def execSneReg (x y : Reg) (s : State) : Host.Outcome State Fault Refusal :=
  .next (s.skipIf (s.reg x != s.reg y))

/-- BNNN JP V0, nnn (R209). -/
def execJpV0 (nnn : Addr) (s : State) : Host.Outcome State Fault Refusal :=
  .next (s.jump (zextByte (s.reg 0) + zextAddr nnn))

end Sys2Proof.Machine
end

