-- ==== Sys2Proof/Machine/Display.lean ====
section
/-! DEFINITION. The display instructions (40_display.md R160 to R173). A meaning starts after the fetch: PC holds the
instruction's address plus 2 (10_state.md R35). -/

namespace Sys2Proof.Machine

/-- `set_resolution(high)` (40_display.md R154): the notice is sent only on an actual change. -/
def State.setResolution (s : State) (m : Mode) : State :=
  if s.fb.mode = m then s
  else { s with fb := Framebuffer.reallocated m }.emit (.resolutionChanged m)

/-- The bit of the sprite at I for its column `c` and row `r`, `bpr` bytes a row: bit 7 of a byte is the leftmost of its
8 pixels, the left byte of a row comes first (40_display.md R166, R168). -/
def State.spriteBit (s : State) (bpr c r : Nat) : Bool :=
  (s.memRead (s.dataAddr (r * bpr + c / 8))).getLsbD (7 - c % 8)

/-- The cells (column, row) of the sprite whose bit is set, row by row from the top, each from the left (R166). -/
def State.spriteCells (s : State) (wd ht bpr : Nat) : List (Nat × Nat) :=
  (List.range ht).flatMap fun r =>
    ((List.range wd).filter fun c => s.spriteBit bpr c r).map fun c => (c, r)

/-- The cells of the sprite that DXYN draws with height nibble `n` (R167). -/
def State.drawnCells (s : State) (n : Nat) : List (Nat × Nat) :=
  s.spriteCells (spriteShape n s.fb.mode).1 (spriteShape n s.fb.mode).2.1 (spriteShape n s.fb.mode).2.2

/-- 00E0 CLS (R160). -/
def execCls (s : State) : Host.Outcome State Fault Refusal := .next { s with fb := s.fb.clear }

/-- 00CN SCD n (R161). -/
def execScd (n : Nat) (s : State) : Host.Outcome State Fault Refusal :=
  .next { s with fb := s.fb.scrollDown n }

/-- 00FB SCR (R162). -/
def execScr (s : State) : Host.Outcome State Fault Refusal := .next { s with fb := s.fb.scrollRight 4 }

/-- 00FC SCL (R163). -/
def execScl (s : State) : Host.Outcome State Fault Refusal := .next { s with fb := s.fb.scrollLeft 4 }

/-- 00FE LOW (R164). -/
def execLow (s : State) : Host.Outcome State Fault Refusal := .next (s.setResolution .lo)

/-- 00FF HIGH (R165). -/
def execHigh (s : State) : Host.Outcome State Fault Refusal := .next (s.setResolution .hi)

/-- DXYN DRW Vx, Vy, n (R166): the origin is read before VF is reset; VF ends as the collision. -/
def execDrw (x y : Reg) (n : Nat) (s : State) : Host.Outcome State Fault Refusal :=
  let drawn := s.fb.toggleAll (s.reg x).toNat (s.reg y).toNat (s.drawnCells n)
  .next ({ s with fb := drawn.1 }.setFlag drawn.2)

end Sys2Proof.Machine
end

