-- ==== Sys2Proof/Machine/IndexMemory.lean ====
section
/-! DEFINITION. Address register, memory transfers and user flags (43_index_memory.md R300 to R309). Memory addresses are
reduced modulo 4096 byte by byte, I only by its width (R300). -/

namespace Sys2Proof.Machine

/-- ANNN LD I, nnn (R301). -/
def execLdI (nnn : Addr) (s : State) : Host.Outcome State Fault Refusal := .next (s.setI (zextAddr nnn))

/-- FX1E ADD I, Vx (R302): the flag is of the exact sum and is written second. -/
def execAddI (x : Reg) (s : State) : Host.Outcome State Fault Refusal :=
  .next ((s.setI (s.i + zextByte (s.reg x))).setFlag (pastTop s.i (s.reg x)))

/-- FX29 LD F, Vx (R303). -/
def execLdF (x : Reg) (s : State) : Host.Outcome State Fault Refusal := .next (s.setI (glyphAddr 5 (s.reg x)))

/-- FX30 LD HF, Vx (R304). -/
def execLdHF (x : Reg) (s : State) : Host.Outcome State Fault Refusal := .next (s.setI (glyphAddr 10 (s.reg x)))

/-- FX33 LD B, Vx (R305). -/
def execLdB (x : Reg) (s : State) : Host.Outcome State Fault Refusal :=
  .next (s.memWriteList (s.dataAddr 0) (bcdDigits (s.reg x)))

/-- I past the last byte of a transfer of V0..Vx (R306, R307). -/
def State.advanceI (s : State) (x : Reg) : State := s.setI (s.i + BitVec.ofNat 16 (x.val + 1))

/-- FX55 LD [I], Vx (R306). -/
def execStoreRegs (x : Reg) (s : State) : Host.Outcome State Fault Refusal :=
  .next ((s.memWriteList (s.dataAddr 0) (s.rangeBytes x)).advanceI x)

/-- FX65 LD Vx, [I] (R307). -/
def execLoadRegs (x : Reg) (s : State) : Host.Outcome State Fault Refusal :=
  .next ({ s with v := mergeRange x (fun k => s.memRead (s.dataAddr k.val)) s.v }.advanceI x)

/-- FX75 LD R, Vx (R308). -/
def execSaveFlags (x : Reg) (s : State) : Host.Outcome State Fault Refusal :=
  .next { s with uf := mergeRange x s.reg s.uf }

/-- FX85 LD Vx, R (R309). -/
def execRestoreFlags (x : Reg) (s : State) : Host.Outcome State Fault Refusal :=
  .next { s with v := mergeRange x s.uf.get s.v }

end Sys2Proof.Machine
end

