-- ==== Sys2Proof/Machine/TimersKeys.lean ====
section
/-! DEFINITION. Timer and key instructions (44_timers_keys.md R350 to R357). -/

namespace Sys2Proof.Machine

/-- A skip on the key that Vx names, up or down as asked; above 0xF the fault BadKeyIndex (R350). -/
def State.skipOnKey (s : State) (x : Reg) (down : Bool) : State :=
  match keyIndex (s.reg x) with
  | some k => s.skipIf (s.key.get k == down)
  | none => s.raise .badKeyIndex

/-- EX9E SKP Vx (R351). -/
def execSkp (x : Reg) (s : State) : Host.Outcome State Fault Refusal := .next (s.skipOnKey x true)

/-- EXA1 SKNP Vx (R352). -/
def execSknp (x : Reg) (s : State) : Host.Outcome State Fault Refusal := .next (s.skipOnKey x false)

/-- FX07 LD Vx, DT (R353). -/
def execLdVxDT (x : Reg) (s : State) : Host.Outcome State Fault Refusal := .next (s.setReg x s.dt)

/-- FX15 LD DT, Vx (R354). -/
def execLdDT (x : Reg) (s : State) : Host.Outcome State Fault Refusal := .next { s with dt := s.reg x }

/-- FX18 LD ST, Vx (R355): no tone, whatever is written. -/
def execLdST (x : Reg) (s : State) : Host.Outcome State Fault Refusal := .next { s with st := s.reg x }

/-- FX0A LD Vx, K (R356, R357): the first key down, else the same instruction again. -/
def execLdVxK (x : Reg) (s : State) : Host.Outcome State Fault Refusal :=
  match firstKeyDown s.key with
  | some k => .next (s.setReg x (BitVec.ofNat 8 k.val))
  | none => .next s.rewind

end Sys2Proof.Machine
end

