-- ==== Sys2Proof/Machine/Scheduler.lean ====
section
/-! DEFINITION. The I/O tick (60_exceptions.md R430 to R433), the start of an iteration and
the catch-up of the dual-rate loop (R420, R421, R424, R447), and what
each host transaction does to the machine (R421, R440 to R449; 70_reset_and_hazards.md R461 to R465). -/

namespace Sys2Proof.Machine

/-- A timer one tick later, floored at zero (R430). -/
def countDown (t : Byte) : Byte := if t = 0 then 0 else t - 1

/-- Step 1 of a tick: both timers count down (R430). -/
def State.countTimers (s : State) : State := { s with dt := countDown s.dt, st := countDown s.st }

/-- `flush()` (40_display.md R159, 60_exceptions.md R432). -/
def State.flush (s : State) : State :=
  if s.fb.dirty then
    { s with fb := { s.fb with dirty := false } }.emit
      (.redraw s.fb.pixelBytes s.fb.mode.width s.fb.mode.height)
  else s

/-- One I/O tick: timers, tone if ST went from 1 to 0, flush, in that order (R430 to R433). -/
def State.ioTick (s : State) : State :=
  if s.st = 1 then (s.countTimers.emit .toneElapsed).flush else s.countTimers.flush

/-- One pass of the catch-up: `io_tick() ; ACC <- ACC - P` (R420). -/
def State.catchUp (s : State) : State := { s.ioTick with acc := s.acc - Config.ioPeriod }

/-- The loop's exit on cancellation: Idle, all other state kept (R421). -/
def State.cancelled (s : State) : State := { s with status := .idle, cancelRequested := false }

/-- The queued reset request, if any, at the start of an iteration (R420, R447). -/
def State.applyQueuedReset (s : State) : State := if s.resetQueued then s.reinitialise else s

/-- The start of an iteration: cancellation, else the queued reset, and the CPU step comes next (R420, R421, R447). -/
def State.beginIteration (s : State) : State :=
  if s.cancelRequested then s.cancelled else { s.applyQueuedReset with place := .step }

/-- What follows a CPU step: the clock is read next, or the loop returns because the step stopped the engine, and the run
is over, a cancellation asked for in it too (R420; DESIGN CHOICE, log 8). -/
def State.afterCpuStep (s : State) : State :=
  if s.status = .running then { s with place := .clock }
  else { s with place := .top, cancelRequested := false }

/-- `KeySet(k, down)` (R441). -/
def State.keySet (s : State) (k : Key) (down : Bool) : State := { s with key := s.key.set k down }

/-- Reset: queued while Running, else applied at once (R447). -/
def State.requestReset (s : State) : State :=
  if s.status = .running then { s with resetQueued := true } else s.reinitialise

/-- Cancel: a request the loop meets at its next iteration (R421); with no loop running there is nothing to cancel
(DESIGN CHOICE, log 8). -/
def State.requestCancel (s : State) : State :=
  if s.status = .running then { s with cancelRequested := true } else s

/-- Start: from Idle to Running, in any other status no effect (70_reset_and_hazards.md R461). -/
def State.start (s : State) : State := if s.status = .idle then { s with status := .running } else s

/-- One host transaction (R440). A load is accepted only while not Running (70_reset_and_hazards.md R464). -/
def deliver (e : HostEvent) (s : State) : Host.Outcome State Fault Refusal :=
  match e with
  | .keySet k down => .next (s.keySet k down)
  | .reset => .next s.requestReset
  | .cancel => .next s.requestCancel
  | .start => .next s.start
  | .load bytes => if s.status = .running then .refused .loadWhileRunning else .next (s.loadProgram bytes)

end Sys2Proof.Machine
end

