-- ==== Sys2Proof/Machine/Fetch.lean ====
section
/-! DEFINITION. The CPU step: fetch, advance, decode, dispatch (30_encoding.md R120, R128), the decode miss
(60_exceptions.md R405), and the core's own transition in the loop of 60_exceptions.md R420. -/

namespace Sys2Proof.Machine

/-- A decode miss of the word `w` at `a`: reported, and nothing else changes (60_exceptions.md R405). -/
def State.missed (s : State) (a w : Word) : State := s.emit (.decodeMiss a w)

/-- `dispatch(w, a)` on the state after `advance()` (30_encoding.md R120, R128). -/
def dispatchWord (a w : Word) (s : State) : Host.Outcome State Fault Refusal :=
  match decodeWord w with
  | .ok i => exec i s
  | .error _ => .next (s.missed a w)

/-- An outcome with its next state, if any, changed. -/
def onNext (f : State → State) : Host.Outcome State Fault Refusal → Host.Outcome State Fault Refusal
  | .next t => .next (f t)
  | .fault r => .fault r
  | .refused r => .refused r

/-- `cpu_step()` and what follows it (30_encoding.md R120, 60_exceptions.md R420, R422). -/
def cpuStep (s : State) : Host.Outcome State Fault Refusal :=
  onNext State.afterCpuStep (dispatchWord s.pc (s.wordAt s.pc) s.advance)

/-- One transition of the core. Running, it goes through the loop of 60_exceptions.md R420: the CPU step once the iteration has
begun, the clock reading after it, a tick while ACC ≥ P, else the start of the next iteration. A host transaction may
come between any two of these (R441; that the start of an iteration is a transition is a DESIGN CHOICE, log 6, log 17).
Not Running, nothing happens (R400, R406, R426). -/
def coreTransition (s : State) : Host.Outcome State Fault Refusal :=
  match s.status with
  | .running =>
    match s.place with
    | .step => cpuStep s
    | .clock => .next s.readClock
    | .top => if Config.ioPeriod ≤ s.acc then .next s.catchUp else .next s.beginIteration
  | .idle | .halted | .faulted _ => .next s

/-- The next turn of the schedule: the core's where none is listed. -/
def takeTurn (s : State) : Host.Outcome State Fault Refusal :=
  match s.turns with
  | [] => coreTransition s
  | .core :: rest => coreTransition { s with turns := rest }
  | .host e :: rest => deliver e { s with turns := rest }

/-- The machine with its next transition a CPU step: STATUS Running, an iteration begun, no host turn before it. -/
def State.atFetch (s : State) : State := { s with status := .running, place := .step, turns := [] }

/-- An instruction's bytes stored where the next fetch reads them (30_encoding.md R120). -/
def State.placeWord (s : State) (nbits w : Nat) : State := s.memWriteList s.pc.toNat (tableBytes nbits w)

end Sys2Proof.Machine
end

