-- ==== Sys2Proof/Machine/Step.lean ====
section
/-! DEFINITION. One step of the machine: one transition of the core or of the host. -/

namespace Sys2Proof.Machine

/-- One step: the next turn (60_exceptions.md R420, R441). -/
def step (s : State) : Host.Outcome State Fault Refusal := takeTurn s

/-- The state with an instruction, its bits as spec/opcode_table.json numbers them, where the next fetch reads it, and
the next transition that fetch. It stands for Load and Start (70_reset_and_hazards.md R466; log 2). -/
def State.withFetchWord (s : State) (nbits w : Nat) : State := (s.placeWord nbits w).atFetch

end Sys2Proof.Machine
end

