-- ==== Sys2Proof/Safety.lean ====
section
/-! DEFINITION. What counts as a safe run, the invariant of the machine, and the terms in which claims are stated. -/

namespace Sys2Proof.Machine

/-- A run of `k` steps that neither faults nor is refused. -/
def SafeRun (k : Nat) (s : State) : Prop := ∃ t : State, core.run k s = .next t

/-- The loop's bookkeeping (10_state.md R48; 60_exceptions.md R420, R424, R426): ACC is never negative; a CPU step or a clock
reading comes next only while Running and with less than one period on ACC; a stopped engine has less than one period
on ACC and no cancellation asked for. -/
abbrev State.LoopOk (s : State) : Prop :=
  0 ≤ s.acc ∧
  (s.place ≠ .top → s.status = .running ∧ s.acc < Config.ioPeriod) ∧
  (s.status ≠ .running → s.acc < Config.ioPeriod ∧ s.cancelRequested = false)

/-- The invariant: memory in canonical form, the grid of its mode's size, the loop's bookkeeping. -/
abbrev State.Inv (s : State) : Prop := Memory.wf s.mem ∧ s.fb.wf ∧ s.LoopOk

/-- The next step is a CPU step: the engine runs, the iteration has begun, and no host turn is listed. -/
abbrev State.Fetching (s : State) : Prop := s.turns = [] ∧ s.status = .running ∧ s.place = .step

/-- Every word of the opcode-map row (mask, value) decodes to the instruction `f` makes of it (30_encoding.md R129). -/
def Decodes (mask value : Word) (f : Word → Instr) : Prop :=
  ∀ w : Word, w &&& mask = value → decodeWord w = .ok (f w)

/-- The registers an instruction may write: what it names as its destination, and VF where VF is its flag
(10_state.md R32, R34). -/
def writesReg : Instr → Reg → Bool
  | .ldImm x _, r | .addImm x _, r | .ldReg x _, r | .orReg x _, r | .andReg x _, r | .xorReg x _, r => r == x
  | .rnd x _, r | .ldVxDT x, r | .ldVxK x, r => r == x
  | .addReg x _, r | .subReg x _, r | .shr x _, r | .subn x _, r | .shl x _, r => r == x || r == vf
  | .drw _ _ _, r | .addI _, r => r == vf
  | .loadRegs x, r | .restoreFlags x, r => decide (r ≤ x)
  | .cls, _ | .ret, _ | .scr, _ | .scl, _ | .exit, _ | .low, _ | .high, _ | .scd _, _ => false
  | .jp _, _ | .call _, _ | .seImm _ _, _ | .sneImm _ _, _ | .seReg _ _, _ | .sneReg _ _, _ => false
  | .ldI _, _ | .jpV0 _, _ | .skp _, _ | .sknp _, _ | .ldDT _, _ | .ldST _, _ => false
  | .ldF _, _ | .ldHF _, _ | .ldB _, _ | .storeRegs _, _ | .saveFlags _, _ => false

/-- How many bytes an instruction stores, from its first data address on (20_memory.md R83). -/
def bytesStored : Instr → Nat
  | .ldB _ => 3
  | .storeRegs x => x.val + 1
  | .cls | .ret | .scr | .scl | .exit | .low | .high | .scd _ => 0
  | .jp _ | .call _ | .seImm _ _ | .sneImm _ _ | .seReg _ _ | .sneReg _ _ => 0
  | .ldImm _ _ | .addImm _ _ | .ldReg _ _ | .orReg _ _ | .andReg _ _ | .xorReg _ _ => 0
  | .addReg _ _ | .subReg _ _ | .shr _ _ | .subn _ _ | .shl _ _ | .rnd _ _ => 0
  | .ldI _ | .jpV0 _ | .drw _ _ _ | .skp _ | .sknp _ | .ldVxDT _ | .ldVxK _ | .ldDT _ | .ldST _ => 0
  | .addI _ | .ldF _ | .ldHF _ | .loadRegs _ | .saveFlags _ | .restoreFlags _ => 0

/-- The address is none of the `n` bytes from the data address on (each address modulo 4096). -/
def Outside (s : State) (n a : Nat) : Prop :=
  ∀ k, k < n → a % Config.memSize ≠ s.dataAddr k % Config.memSize

/-- The sprite that DXYN draws with height nibble `n` has its cell in column `c` and row `r` set: 8 × n, but 16 × 16 with
two bytes a row where `n = 0` in high resolution; bit 7 of a byte is its leftmost pixel (40_display.md R166 to R168). -/
def State.SpriteSet (s : State) (n c r : Nat) : Prop :=
  if n = 0 ∧ s.fb.mode = .hi then
    c < 16 ∧ r < 16 ∧ (s.memRead (s.i.toNat + r * 2 + c / 8)).getLsbD (7 - c % 8) = true
  else c < 8 ∧ r < n ∧ (s.memRead (s.i.toNat + r)).getLsbD (7 - c) = true

/-- A set cell of that sprite, drawn at (Vx, Vy), falls on the pixel (`p`, `q`) of the grid (40_display.md R169). -/
def State.SpriteCovers (s : State) (x y : Reg) (n p q : Nat) : Prop :=
  ∃ c r, s.SpriteSet n c r ∧
    ((s.v.get x).toNat + c) % s.fb.mode.width = p ∧ ((s.v.get y).toNat + r) % s.fb.mode.height = q

/-- A grid of the mode's size with every pixel off. -/
def Framebuffer.AllOff (fb : Framebuffer) : Prop := fb.wf ∧ ∀ x y, fb.get x y = false

/-- `t` is `s` after the reset procedure of 70_reset_and_hazards.md R462: memory and the user flags kept, the framebuffer low
resolution, off and dirty, the notice sent if the mode was Hi, STATUS Running only if it was. -/
def State.ResetTo (s t : State) : Prop :=
  ∃ fb : Framebuffer, fb.mode = .lo ∧ fb.AllOff ∧ fb.dirty = true ∧
    t = { s with
      v := Vector.replicate 16 0, i := 0, pc := 0x200, sp := 0, stack := Vector.replicate 16 0
      dt := 0, st := 0, key := Vector.replicate 16 false, fb := fb, acc := 0
      status := if s.status = .running then .running else .idle
      place := .top, resetQueued := false
      outputs := s.outputs ++ (if s.fb.mode = .hi then [.resolutionChanged .lo] else []) }

/-- The report a fault sends (60_exceptions.md R404): the code, the instruction's address and its word, seen from the state
after the fetch. -/
def State.faultReport (s : State) (code : FaultCode) : Output :=
  .status (.faulted code (s.pc - 2) (s.wordAt (s.pc - 2)))

end Sys2Proof.Machine
end

