-- ==== Sys2Proof/Certificates/Slice0/Obligations.lean ====
section
/-! DEFINITION. The statements for the provers. A next state is written as the old state with the fields that change, so
every field that is not named is unchanged, memory among them; a statement that changes memory says what every byte
reads as. `exec` acts on the state after the fetch: PC is the instruction's address plus 2 (10_state.md R35). -/

open Sys2Proof Sys2Proof.Machine

/-! ## Encoding -/

/-- Every instruction that fits its word decodes back from its two bytes, whatever follows them (the encoder is the
model's own; it is written from 30_encoding.md R110 to R113 and R129). -/
def Obligations.DecodeEncodeRoundTrip : Prop :=
  ∀ (i : Instr) (rest : List Byte), i.wf = true →
    decodeBytes (highByte (encode i) :: lowByte (encode i) :: rest) = .ok (i, rest)

/-- The dispatch on nibbles and the opcode map of 30_encoding.md R129 are one decoder, and no two rows overlap. -/
def Obligations.DispatchFollowsOpcodeMap : Prop :=
  (∀ r ∈ opcodeMap, ∀ w, r.selects w = true → decodeWord w = .ok (r.build w)) ∧
  (∀ w, (∀ r ∈ opcodeMap, r.selects w = false) → ∃ m, decodeWord w = .error m) ∧
  opcodeMap.Pairwise (fun r q => ∀ w, ¬(r.selects w = true ∧ q.selects w = true)) ∧
  opcodeMap.length = 43

/-- 30_encoding.md R130, 60_exceptions.md R405: a word is a miss exactly where it matches no row of the opcode map, which is
where it lacks a secondary key of groups 0, 8, E and F; a CPU step on it reports the word and goes on. The report's payload
and the x nibble of group 0 that is not examined are the spec's own decisions (D20, D21); that the clock is read
next is the model's choice (log 6: the loop of 60_exceptions.md R420 cut into transitions). -/
def Obligations.MissSpaceIsExactAndNonFatal : Prop :=
  (∀ w : Word, (∃ m, decodeWord w = .error m) ↔ ∀ r ∈ opcodeMap, r.selects w = false) ∧
  (∀ w : Word, (∃ m, decodeWord w = .error m) ↔
    (w >>> 12 = 0x0 ∧ ¬(w &&& 0xF0 = 0xC0) ∧
      w &&& 0xFF ∉ [0xE0#16, 0xEE#16, 0xFB#16, 0xFC#16, 0xFD#16, 0xFE#16, 0xFF#16]) ∨
    (w >>> 12 = 0x8 ∧ w &&& 0xF ∈ [0x8#16, 0x9#16, 0xA#16, 0xB#16, 0xC#16, 0xD#16, 0xF#16]) ∨
    (w >>> 12 = 0xE ∧ w &&& 0xFF ∉ [0x9E#16, 0xA1#16]) ∨
    (w >>> 12 = 0xF ∧ w &&& 0xFF ∉ [0x07#16, 0x0A#16, 0x15#16, 0x18#16, 0x1E#16, 0x29#16, 0x30#16, 0x33#16,
      0x55#16, 0x65#16, 0x75#16, 0x85#16])) ∧
  (∀ s : State, s.Fetching → ∀ m, decodeWord (s.wordAt s.pc) = .error m →
    step s = .next { s with pc := s.pc + 2, place := .clock,
                            outputs := s.outputs ++ [.decodeMiss s.pc (s.wordAt s.pc)] })

/-- One word of each group, written from the patterns of 30_encoding.md R129. -/
def Obligations.SampleWordsDecode : Prop :=
  decodeWord 0x00E0 = .ok .cls ∧ decodeWord 0x0FC5 = .ok (.scd 5) ∧ decodeWord 0x1ABC = .ok (.jp 0xABC) ∧
  decodeWord 0x6A3C = .ok (.ldImm 0xA 0x3C) ∧ decodeWord 0x8124 = .ok (.addReg 1 2) ∧
  decodeWord 0x912F = .ok (.sneReg 1 2) ∧ decodeWord 0xD12F = .ok (.drw 1 2 15) ∧
  decodeWord 0xE59E = .ok (.skp 5) ∧ decodeWord 0xF365 = .ok (.loadRegs 3)

/-! ## Fetch and step -/

/-- 30_encoding.md R120: the word is the byte at PC then the byte at PC + 1, each address modulo 4096; PC advances by 2
modulo 2^16; the decoded instruction, or the report of the miss (R128, 60_exceptions.md R405), runs on that state; after it
the loop reads the clock if the engine still runs, else the run is over (`State.afterCpuStep`; R420). That the clock reading
is a transition of its own (log 6), and that the end of a run drops a cancellation asked for in it (log 8), are the
model's choices; the reduction modulo 4096 and the report's payload are the spec's own decisions
(D5, D20). -/
def Obligations.StepRunsDecodedInstruction : Prop :=
  ∀ (s : State) (w : Word), s.Fetching →
    w = s.memRead (s.pc.toNat % 4096) ++ s.memRead ((s.pc.toNat + 1) % 4096) →
    (∀ i, decodeWord w = .ok i → step s = onNext State.afterCpuStep (exec i { s with pc := s.pc + 2 })) ∧
    (∀ m, decodeWord w = .error m → step s =
      .next (State.afterCpuStep { s with pc := s.pc + 2, outputs := s.outputs ++ [.decodeMiss s.pc w] }))

/-- An instruction word placed where the next fetch reads it is the one the very next step runs. -/
def Obligations.PlacedWordRunsNext : Prop :=
  ∀ (s : State) (w : Word) (i : Instr), Memory.wf s.mem → decodeWord w = .ok i →
    decodeTableWord 16 w.toNat = some i ∧ (s.withFetchWord 16 w.toNat).wordAt s.pc = w ∧
    (s.withFetchWord 16 w.toNat).pc = s.pc ∧
    step (s.withFetchWord 16 w.toNat) =
      onNext State.afterCpuStep (exec i { s.withFetchWord 16 w.toNat with pc := s.pc + 2 })

/-! ## Register arithmetic and logic -/

/-- 42_alu.md R251, R252, R253. -/
def Obligations.RegisterLoadsAndImmediateAdd : Prop :=
  Decodes 0xF000 0x6000 (fun w => .ldImm (xOf w) (nnOf w)) ∧
  Decodes 0xF000 0x7000 (fun w => .addImm (xOf w) (nnOf w)) ∧
  Decodes 0xF00F 0x8000 (fun w => .ldReg (xOf w) (yOf w)) ∧
  (∀ x nn (s : State), ∃ v, exec (.ldImm x nn) s = .next { s with v := v } ∧
    v.get x = nn ∧ ∀ r, r ≠ x → v.get r = s.v.get r) ∧
  (∀ x nn (s : State), ∃ v, exec (.addImm x nn) s = .next { s with v := v } ∧
    (v.get x).toNat = ((s.v.get x).toNat + nn.toNat) % 256 ∧ ∀ r, r ≠ x → v.get r = s.v.get r) ∧
  (∀ x y (s : State), ∃ v, exec (.ldReg x y) s = .next { s with v := v } ∧
    v.get x = s.v.get y ∧ ∀ r, r ≠ x → v.get r = s.v.get r)

/-- 42_alu.md R254, R255, R256: bit by bit, and no flag. -/
def Obligations.BitwiseOperationsLeaveVF : Prop :=
  Decodes 0xF00F 0x8001 (fun w => .orReg (xOf w) (yOf w)) ∧
  Decodes 0xF00F 0x8002 (fun w => .andReg (xOf w) (yOf w)) ∧
  Decodes 0xF00F 0x8003 (fun w => .xorReg (xOf w) (yOf w)) ∧
  (∀ x y (s : State), ∃ v, exec (.orReg x y) s = .next { s with v := v } ∧
    (∀ k, (v.get x).getLsbD k = ((s.v.get x).getLsbD k || (s.v.get y).getLsbD k)) ∧
    ∀ r, r ≠ x → v.get r = s.v.get r) ∧
  (∀ x y (s : State), ∃ v, exec (.andReg x y) s = .next { s with v := v } ∧
    (∀ k, (v.get x).getLsbD k = ((s.v.get x).getLsbD k && (s.v.get y).getLsbD k)) ∧
    ∀ r, r ≠ x → v.get r = s.v.get r) ∧
  (∀ x y (s : State), ∃ v, exec (.xorReg x y) s = .next { s with v := v } ∧
    (∀ k, (v.get x).getLsbD k = ((s.v.get x).getLsbD k ^^ (s.v.get y).getLsbD k)) ∧
    ∀ r, r ≠ x → v.get r = s.v.get r)

/-- 42_alu.md R258: the sum and the carry, the flag written second. -/
def Obligations.AddSetsSumAndCarry : Prop :=
  Decodes 0xF00F 0x8004 (fun w => .addReg (xOf w) (yOf w)) ∧
  ∀ x y (s : State), ∃ v, exec (.addReg x y) s = .next { s with v := v } ∧
    (x ≠ vf → (v.get x).toNat = ((s.v.get x).toNat + (s.v.get y).toNat) % 256) ∧
    v.get vf = (if (s.v.get x).toNat + (s.v.get y).toNat > 255 then 1 else 0) ∧
    ∀ r, r ≠ x → r ≠ vf → v.get r = s.v.get r

/-- 42_alu.md R259, R261: the difference and the no-borrow, the flag written second. -/
def Obligations.SubtractionsSetDifferenceAndNoBorrow : Prop :=
  Decodes 0xF00F 0x8005 (fun w => .subReg (xOf w) (yOf w)) ∧
  Decodes 0xF00F 0x8007 (fun w => .subn (xOf w) (yOf w)) ∧
  (∀ x y (s : State), ∃ v, exec (.subReg x y) s = .next { s with v := v } ∧
    (x ≠ vf → ((v.get x).toNat : Int) = ((s.v.get x).toNat - (s.v.get y).toNat : Int) % 256) ∧
    v.get vf = (if (s.v.get x).toNat ≥ (s.v.get y).toNat then 1 else 0) ∧
    ∀ r, r ≠ x → r ≠ vf → v.get r = s.v.get r) ∧
  (∀ x y (s : State), ∃ v, exec (.subn x y) s = .next { s with v := v } ∧
    (x ≠ vf → ((v.get x).toNat : Int) = ((s.v.get y).toNat - (s.v.get x).toNat : Int) % 256) ∧
    v.get vf = (if (s.v.get y).toNat ≥ (s.v.get x).toNat then 1 else 0) ∧
    ∀ r, r ≠ x → r ≠ vf → v.get r = s.v.get r)

/-- 42_alu.md R260, R262: Vy is shifted; with x = F the result remains in VF, the spec's own decision (D3). -/
def Obligations.ShiftsReadVyAndWriteResultLast : Prop :=
  Decodes 0xF00F 0x8006 (fun w => .shr (xOf w) (yOf w)) ∧
  Decodes 0xF00F 0x800E (fun w => .shl (xOf w) (yOf w)) ∧
  (∀ x y (s : State), ∃ v, exec (.shr x y) s = .next { s with v := v } ∧
    (v.get x).toNat = (s.v.get y).toNat / 2 ∧
    (x ≠ vf → (v.get vf).toNat = (s.v.get y).toNat % 2) ∧
    ∀ r, r ≠ x → r ≠ vf → v.get r = s.v.get r) ∧
  (∀ x y (s : State), ∃ v, exec (.shl x y) s = .next { s with v := v } ∧
    (v.get x).toNat = (s.v.get y).toNat * 2 % 256 ∧
    (x ≠ vf → (v.get vf).toNat = (s.v.get y).toNat / 128) ∧
    ∀ r, r ≠ x → r ≠ vf → v.get r = s.v.get r)

/-- 42_alu.md R263: the draw, masked; where the source's next byte is supplied, that byte is the draw, so every byte can
be drawn; nothing rests on the free value drawn otherwise. -/
def Obligations.RandomByteIsMasked : Prop :=
  Decodes 0xF000 0xC000 (fun w => .rnd (xOf w) (nnOf w)) ∧
  (∀ x nn (s : State), ∃ (r : Byte) (v : Vector Byte 16),
    exec (.rnd x nn) s = .next { s with v := v, randoms := s.randoms.tail, draws := s.draws + 1 } ∧
    v.get x = r &&& nn ∧ ∀ q, q ≠ x → v.get q = s.v.get q) ∧
  (∀ x nn (r : Byte) rest (s : State), s.randoms = r :: rest →
    exec (.rnd x nn) s =
      .next { s with v := s.v.set x.val (r &&& nn), randoms := rest, draws := s.draws + 1 })

/-! ## Control transfer -/

/-- 41_control.md R203, R209: the target is masked to 12 bits. -/
def Obligations.JumpsSetPc : Prop :=
  Decodes 0xF000 0x1000 (fun w => .jp (nnnOf w)) ∧
  Decodes 0xF000 0xB000 (fun w => .jpV0 (nnnOf w)) ∧
  (∀ nnn (s : State), ∃ p : Word, exec (.jp nnn) s = .next { s with pc := p } ∧ p.toNat = nnn.toNat) ∧
  (∀ nnn (s : State), ∃ p : Word, exec (.jpV0 nnn) s = .next { s with pc := p } ∧
    p.toNat = ((s.v.get 0).toNat + nnn.toNat) % 4096)

/-- 41_control.md R205, R206: PC two further where the condition holds, and nothing else. -/
def Obligations.ImmediateSkipsAdvancePc : Prop :=
  Decodes 0xF000 0x3000 (fun w => .seImm (xOf w) (nnOf w)) ∧
  Decodes 0xF000 0x4000 (fun w => .sneImm (xOf w) (nnOf w)) ∧
  (∀ x nn (s : State), exec (.seImm x nn) s = .next (if s.v.get x = nn then { s with pc := s.pc + 2 } else s)) ∧
  (∀ x nn (s : State), exec (.sneImm x nn) s = .next (if s.v.get x = nn then s else { s with pc := s.pc + 2 }))

/-- 41_control.md R207, R208, for every low nibble of the word: that it is not examined is the spec's own decision (D21). -/
def Obligations.RegisterSkipsAdvancePc : Prop :=
  Decodes 0xF000 0x5000 (fun w => .seReg (xOf w) (yOf w)) ∧
  Decodes 0xF000 0x9000 (fun w => .sneReg (xOf w) (yOf w)) ∧
  (∀ x y (s : State),
    exec (.seReg x y) s = .next (if s.v.get x = s.v.get y then { s with pc := s.pc + 2 } else s)) ∧
  (∀ x y (s : State),
    exec (.sneReg x y) s = .next (if s.v.get x = s.v.get y then s else { s with pc := s.pc + 2 }))

/-- 41_control.md R204: the advanced PC is pushed, or with 16 entries the fault StackOverflow, with nothing written but
STATUS and the report (the state a fault leaves is the spec's own decision, D17). -/
def Obligations.CallPushesOrOverflows : Prop :=
  Decodes 0xF000 0x2000 (fun w => .call (nnnOf w)) ∧
  (∀ nnn (s : State), s.sp.val < 16 → ∃ (st : Vector Word 16) (sp : Fin 17) (p : Word),
    exec (.call nnn) s = .next { s with stack := st, sp := sp, pc := p } ∧
    sp.val = s.sp.val + 1 ∧ p.toNat = nnn.toNat ∧
    (∀ k : Fin 16, k.val = s.sp.val → st.get k = s.pc) ∧
    (∀ k : Fin 16, k.val ≠ s.sp.val → st.get k = s.stack.get k)) ∧
  (∀ nnn (s : State), s.sp.val = 16 → exec (.call nnn) s =
    .next { s with status := .faulted .stackOverflow, outputs := s.outputs ++ [s.faultReport .stackOverflow] })

/-- 41_control.md R201: the top entry, masked to 12 bits, or with an empty stack the fault StackUnderflow, with nothing
written but STATUS and the report (D17). -/
def Obligations.ReturnPopsOrUnderflows : Prop :=
  Decodes 0xF0FF 0x00EE (fun _ => .ret) ∧
  (∀ (s : State) (k : Fin 16), s.sp.val = k.val + 1 → ∃ (sp : Fin 17) (p : Word),
    exec .ret s = .next { s with sp := sp, pc := p } ∧
    sp.val = k.val ∧ p.toNat = (s.stack.get k).toNat % 4096) ∧
  (∀ s : State, s.sp.val = 0 → exec .ret s =
    .next { s with status := .faulted .stackUnderflow, outputs := s.outputs ++ [s.faultReport .stackUnderflow] })

/-- A call and the return at its target resume at the instruction after the call, the stack depth as before
(41_control.md R201, R204). -/
def Obligations.CallThenReturnResumes : Prop :=
  ∀ nnn (s t u : State), s.sp.val < 16 → exec (.call nnn) s = .next t →
    exec .ret { t with pc := t.pc + 2 } = .next u →
    u.pc.toNat = s.pc.toNat % 4096 ∧ u.sp = s.sp ∧
    ∀ k : Fin 16, k.val < s.sp.val → u.stack.get k = s.stack.get k

/-- 41_control.md R202: STATUS becomes Halted, the halt is reported, and nothing else changes; as a step, PC keeps its
advanced value and the step after it does nothing (the spec's own decision, D19). That the run's end puts the loop back
at its start (log 6) and drops a cancellation asked for (log 8) are the model's choices. -/
def Obligations.ExitHalts : Prop :=
  Decodes 0xF0FF 0x00FD (fun _ => .exit) ∧
  (∀ s : State, exec .exit s = .next { s with status := .halted, outputs := s.outputs ++ [.status .halted] }) ∧
  (∀ s : State, s.Fetching → decodeWord (s.wordAt s.pc) = .ok .exit → ∃ t, step s = .next t ∧
    t = { s with pc := s.pc + 2, status := .halted, outputs := s.outputs ++ [.status .halted],
                 place := .top, cancelRequested := false } ∧ step t = .next t)

/-! ## Display -/

/-- 40_display.md R160: the grid of the mode, all off, and dirty in any case. -/
def Obligations.ClearTurnsEveryPixelOff : Prop :=
  Decodes 0xF0FF 0x00E0 (fun _ => .cls) ∧
  ∀ s : State, ∃ fb : Framebuffer, exec .cls s = .next { s with fb := fb } ∧
    fb.mode = s.fb.mode ∧ fb.AllOff ∧ fb.dirty = true

/-- 40_display.md R164, R165: an actual change reallocates the grid, all off, and sends one notice; in the mode named nothing
changes. That a change marks dirty is the spec's own decision (D25). -/
def Obligations.ResolutionSwitchReallocates : Prop :=
  Decodes 0xF0FF 0x00FE (fun _ => .low) ∧ Decodes 0xF0FF 0x00FF (fun _ => .high) ∧
  (∀ s : State, s.fb.mode = .lo → exec .low s = .next s) ∧
  (∀ s : State, s.fb.mode = .hi → exec .high s = .next s) ∧
  (∀ s : State, s.fb.mode = .hi → ∃ fb : Framebuffer,
    exec .low s = .next { s with fb := fb, outputs := s.outputs ++ [.resolutionChanged .lo] } ∧
    fb.mode = .lo ∧ fb.AllOff ∧ fb.dirty = true) ∧
  (∀ s : State, s.fb.mode = .lo → ∃ fb : Framebuffer,
    exec .high s = .next { s with fb := fb, outputs := s.outputs ++ [.resolutionChanged .hi] } ∧
    fb.mode = .hi ∧ fb.AllOff ∧ fb.dirty = true)

/-- 40_display.md R161, R162, R163: every pixel after a scroll; SCD 0 is a no-op. That the counts are pixels of the current
grid and that a scroll marks dirty are the spec's own decisions (D26, D25). -/
def Obligations.ScrollsMovePixels : Prop :=
  Decodes 0xF0F0 0x00C0 (fun w => .scd (nOf w).toNat) ∧
  Decodes 0xF0FF 0x00FB (fun _ => .scr) ∧ Decodes 0xF0FF 0x00FC (fun _ => .scl) ∧
  (∀ s : State, exec (.scd 0) s = .next s) ∧
  (∀ n (s : State), s.fb.wf → 0 < n → ∃ fb : Framebuffer, exec (.scd n) s = .next { s with fb := fb } ∧
    fb.mode = s.fb.mode ∧ fb.wf ∧ fb.dirty = true ∧
    ∀ x y, x < fb.mode.width → y < fb.mode.height →
      fb.get x y = if n ≤ y then s.fb.get x (y - n) else false) ∧
  (∀ s : State, s.fb.wf → ∃ fb : Framebuffer, exec .scr s = .next { s with fb := fb } ∧
    fb.mode = s.fb.mode ∧ fb.wf ∧ fb.dirty = true ∧
    ∀ x y, x < fb.mode.width → y < fb.mode.height →
      fb.get x y = if 4 ≤ x then s.fb.get (x - 4) y else false) ∧
  (∀ s : State, s.fb.wf → ∃ fb : Framebuffer, exec .scl s = .next { s with fb := fb } ∧
    fb.mode = s.fb.mode ∧ fb.wf ∧ fb.dirty = true ∧
    ∀ x y, x < fb.mode.width → y < fb.mode.height →
      fb.get x y = if x + 4 < fb.mode.width then s.fb.get (x + 4) y else false)

/-- 40_display.md R156: the controller's upward scroll, which no instruction reaches; its dirty mark is
the spec's own decision (D25). -/
def Obligations.ScrollUpMovesPixels : Prop :=
  ∀ (fb : Framebuffer) n, fb.wf →
    (n = 0 → fb.scrollUp n = fb) ∧ (n ≠ 0 → (fb.scrollUp n).dirty = true) ∧
    (fb.scrollUp n).mode = fb.mode ∧ (fb.scrollUp n).wf ∧
    ∀ x y, x < fb.mode.width → y < fb.mode.height →
      (fb.scrollUp n).get x y = if y + n < fb.mode.height then fb.get x (y + n) else false

/-- 40_display.md R166 to R171: exactly the pixels a set cell falls on are turned; VF is 1 if one of them was on, else 0;
a drawing with a set cell marks dirty, one with none leaves dirty as it was; I is unchanged. The order of bits and
bytes is the spec's own decision (D16). -/
def Obligations.DrawTurnsCoveredPixels : Prop :=
  Decodes 0xF000 0xD000 (fun w => .drw (xOf w) (yOf w) (nOf w).toNat) ∧
  ∀ x y n (s : State), n < 16 → s.fb.wf → ∃ (fb : Framebuffer) (v : Vector Byte 16),
    exec (.drw x y n) s = .next { s with fb := fb, v := v } ∧
    fb.mode = s.fb.mode ∧ fb.wf ∧
    (∀ p q, p < fb.mode.width → q < fb.mode.height →
      (s.SpriteCovers x y n p q → fb.get p q = !s.fb.get p q) ∧
      (¬s.SpriteCovers x y n p q → fb.get p q = s.fb.get p q)) ∧
    ((∃ c r, s.SpriteSet n c r) → fb.dirty = true) ∧
    ((¬∃ c r, s.SpriteSet n c r) → fb.dirty = s.fb.dirty) ∧
    ((∃ p q, s.SpriteCovers x y n p q ∧ s.fb.get p q = true) → v.get vf = 1) ∧
    ((¬∃ p q, s.SpriteCovers x y n p q ∧ s.fb.get p q = true) → v.get vf = 0) ∧
    ∀ r, r ≠ vf → v.get r = s.v.get r

/-- 40_display.md R172: DXY0 in low resolution only clears VF (the spec's own decision, D27). -/
def Obligations.DrawZeroInLowResOnlyClearsVF : Prop :=
  ∀ x y (s : State), s.fb.mode = .lo → exec (.drw x y 0) s = .next { s with v := s.v.set 15 0 }

/-- 40_display.md R173: the same sprite at the same origin again restores every pixel, and VF then says whether some pixel
under a set cell was off before the first drawing. -/
def Obligations.DrawTwiceRestoresGrid : Prop :=
  ∀ x y n x' y' (s t u : State), n < 16 → s.fb.wf → exec (.drw x y n) s = .next t →
    t.v.get x' = s.v.get x → t.v.get y' = s.v.get y → exec (.drw x' y' n) t = .next u →
    u.fb.rows = s.fb.rows ∧ u.fb.mode = s.fb.mode ∧
    ((∃ p q, s.SpriteCovers x y n p q ∧ s.fb.get p q = false) ↔ u.v.get vf = 1)

/-! ## Address register, memory, user flags -/

/-- 43_index_memory.md R301, R303, R304. That FX30 adds no base to 10 Vx is the resolution of 90_conflicts.md C1 and the spec's
own decision D15 (log 14). -/
def Obligations.AddressRegisterLoads : Prop :=
  Decodes 0xF000 0xA000 (fun w => .ldI (nnnOf w)) ∧ Decodes 0xF0FF 0xF029 (fun w => .ldF (xOf w)) ∧
  Decodes 0xF0FF 0xF030 (fun w => .ldHF (xOf w)) ∧
  (∀ nnn (s : State), ∃ i : Word, exec (.ldI nnn) s = .next { s with i := i } ∧ i.toNat = nnn.toNat) ∧
  (∀ x (s : State), ∃ i : Word, exec (.ldF x) s = .next { s with i := i } ∧ i.toNat = (s.v.get x).toNat * 5) ∧
  (∀ x (s : State), ∃ i : Word, exec (.ldHF x) s = .next { s with i := i } ∧ i.toNat = (s.v.get x).toNat * 10)

/-- 43_index_memory.md R302: the flag is of the exact sum (the spec's own decision, D39) and is written second (D3). -/
def Obligations.AddToIndexSetsRangeFlag : Prop :=
  Decodes 0xF0FF 0xF01E (fun w => .addI (xOf w)) ∧
  ∀ x (s : State), ∃ (i : Word) (v : Vector Byte 16), exec (.addI x) s = .next { s with i := i, v := v } ∧
    i.toNat = (s.i.toNat + (s.v.get x).toNat) % 65536 ∧
    v.get vf = (if s.i.toNat + (s.v.get x).toNat > 0xFFF then 1 else 0) ∧
    ∀ r, r ≠ vf → v.get r = s.v.get r

/-- 43_index_memory.md R305: the three digits at I, I + 1, I + 2 modulo 4096 (byte by byte, the spec's own decision D5), every
other byte as before. -/
def Obligations.BcdStoresThreeDigits : Prop :=
  Decodes 0xF0FF 0xF033 (fun w => .ldB (xOf w)) ∧
  ∀ x (s : State), Memory.wf s.mem → ∃ m : Memory, exec (.ldB x) s = .next { s with mem := m } ∧
    Memory.wf m ∧
    (State.memRead { s with mem := m } (s.dataAddr 0)).toNat = (s.v.get x).toNat / 100 ∧
    (State.memRead { s with mem := m } (s.dataAddr 1)).toNat = (s.v.get x).toNat / 10 % 10 ∧
    (State.memRead { s with mem := m } (s.dataAddr 2)).toNat = (s.v.get x).toNat % 10 ∧
    ∀ a, Outside s 3 a → State.memRead { s with mem := m } a = s.memRead a

/-- 43_index_memory.md R306: V0..Vx at I on, modulo 4096 byte by byte (D5), I past the last of them, every other byte as
before. -/
def Obligations.StoreRegistersWritesRange : Prop :=
  Decodes 0xF0FF 0xF055 (fun w => .storeRegs (xOf w)) ∧
  ∀ x (s : State), Memory.wf s.mem → ∃ (m : Memory) (i : Word),
    exec (.storeRegs x) s = .next { s with mem := m, i := i } ∧ Memory.wf m ∧
    i.toNat = (s.i.toNat + x.val + 1) % 65536 ∧
    (∀ k : Reg, k ≤ x → State.memRead { s with mem := m } (s.dataAddr k.val) = s.v.get k) ∧
    ∀ a, Outside s (x.val + 1) a → State.memRead { s with mem := m } a = s.memRead a

/-- 43_index_memory.md R307: V0..Vx from the bytes at I on, modulo 4096 byte by byte (D5), I past the last of them. -/
def Obligations.LoadRegistersReadsRange : Prop :=
  Decodes 0xF0FF 0xF065 (fun w => .loadRegs (xOf w)) ∧
  ∀ x (s : State), ∃ (v : Vector Byte 16) (i : Word), exec (.loadRegs x) s = .next { s with v := v, i := i } ∧
    i.toNat = (s.i.toNat + x.val + 1) % 65536 ∧
    (∀ k : Reg, k ≤ x → v.get k = s.memRead (s.dataAddr k.val)) ∧
    ∀ k : Reg, x < k → v.get k = s.v.get k

/-- A store is seen by the very next fetch: FX55 of two registers or more to where the next instruction stands makes V0 and V1
its word (20_memory.md R96, the spec's own decision D8). -/
def Obligations.StoreIsSeenByNextFetch : Prop :=
  ∀ x (s t : State), Memory.wf s.mem → (1 : Reg) ≤ x → s.i.toNat % 4096 = s.pc.toNat % 4096 →
    exec (.storeRegs x) s = .next t → t.wordAt t.pc = s.v.get 0 ++ s.v.get 1

/-- FX55 then FX65 with the same x and the same initial I gives V0..Vx back, whatever the registers held between
(43_index_memory.md R307). -/
def Obligations.StoreThenLoadRoundTrips : Prop :=
  ∀ x (s t u : State) (v : Vector Byte 16), Memory.wf s.mem → exec (.storeRegs x) s = .next t →
    exec (.loadRegs x) { t with i := s.i, v := v } = .next u →
    (∀ k : Reg, k ≤ x → u.v.get k = s.v.get k) ∧ u.i = t.i ∧ ∀ a, u.memRead a = t.memRead a

/-- 43_index_memory.md R308, R309; that every x is in range is the spec's own decision (D9). -/
def Obligations.UserFlagsSaveAndRestore : Prop :=
  Decodes 0xF0FF 0xF075 (fun w => .saveFlags (xOf w)) ∧
  Decodes 0xF0FF 0xF085 (fun w => .restoreFlags (xOf w)) ∧
  (∀ x (s : State), ∃ uf, exec (.saveFlags x) s = .next { s with uf := uf } ∧
    (∀ k : Reg, k ≤ x → uf.get k = s.v.get k) ∧ ∀ k : Reg, x < k → uf.get k = s.uf.get k) ∧
  (∀ x (s : State), ∃ v, exec (.restoreFlags x) s = .next { s with v := v } ∧
    (∀ k : Reg, k ≤ x → v.get k = s.uf.get k) ∧ ∀ k : Reg, x < k → v.get k = s.v.get k)

/-- What FX75 saved is what FX85 restores after a reset (43_index_memory.md R309, 10_state.md R54; the spec's own decision,
D10): across the reset procedure from any STATUS; and in a run of a Running engine, where the host asks for the reset
after the FX75, no tick is due at the next clock reading, no cancellation is asked for, and FX85 is the first instruction
after the reset (the schedule, the supplied reading and the cut of the loop into transitions are the model's: log 4,
log 7, log 6). -/
def Obligations.UserFlagsSurviveReset : Prop :=
  (∀ x (s t r u : State), exec (.saveFlags x) s = .next t → t.ResetTo r → exec (.restoreFlags x) r = .next u →
    (∀ k : Reg, k ≤ x → u.v.get k = s.v.get k) ∧ ∀ k : Reg, x < k → u.v.get k = 0) ∧
  (∀ x (s : State) (r : Config.Reading) rest, s.turns = [.core, .host .reset] → { s with turns := [] }.Fetching →
    s.cancelRequested = false → s.readings = r :: rest → s.acc + r.seconds < Config.ioPeriod →
    decodeWord (s.wordAt s.pc) = .ok (.saveFlags x) → decodeWord (s.wordAt 0x200) = .ok (.restoreFlags x) →
    ∃ u : State, core.run 5 s = .next u ∧ u.status = .running ∧ u.pc = 0x202 ∧
      (∀ k : Reg, k ≤ x → u.v.get k = s.v.get k) ∧ ∀ k : Reg, x < k → u.v.get k = 0)

/-! ## Timers and keys -/

/-- 44_timers_keys.md R353, R354, R355: FX18 sends no tone, whatever it writes (the spec's own decision D24, which resolves
90_conflicts.md C6; log 14). -/
def Obligations.TimerTransfers : Prop :=
  Decodes 0xF0FF 0xF007 (fun w => .ldVxDT (xOf w)) ∧ Decodes 0xF0FF 0xF015 (fun w => .ldDT (xOf w)) ∧
  Decodes 0xF0FF 0xF018 (fun w => .ldST (xOf w)) ∧
  (∀ x (s : State), ∃ v, exec (.ldVxDT x) s = .next { s with v := v } ∧
    v.get x = s.dt ∧ ∀ r, r ≠ x → v.get r = s.v.get r) ∧
  (∀ x (s : State), exec (.ldDT x) s = .next { s with dt := s.v.get x }) ∧
  (∀ x (s : State), exec (.ldST x) s = .next { s with st := s.v.get x })

/-- 44_timers_keys.md R350, R351, R352: the skip on the key Vx names, and above 0xF the fault BadKeyIndex, with nothing
written but STATUS and the report (the spec's own decisions, D18 and D17). -/
def Obligations.KeySkipsOrBadIndex : Prop :=
  Decodes 0xF0FF 0xE09E (fun w => .skp (xOf w)) ∧ Decodes 0xF0FF 0xE0A1 (fun w => .sknp (xOf w)) ∧
  (∀ x (k : Key) (s : State), (s.v.get x).toNat = k.val →
    exec (.skp x) s = .next (if s.key.get k then { s with pc := s.pc + 2 } else s) ∧
    exec (.sknp x) s = .next (if s.key.get k then s else { s with pc := s.pc + 2 })) ∧
  (∀ x (s : State), 0xF < (s.v.get x).toNat → ∃ t : State,
    exec (.skp x) s = .next t ∧ exec (.sknp x) s = .next t ∧
    t = { s with status := .faulted .badKeyIndex, outputs := s.outputs ++ [s.faultReport .badKeyIndex] })

/-- 44_timers_keys.md R356: the least key that is down, at once; with none down PC goes back to the instruction and nothing
else changes. -/
def Obligations.KeyWaitTakesLeastKeyOrRewinds : Prop :=
  Decodes 0xF0FF 0xF00A (fun w => .ldVxK (xOf w)) ∧
  (∀ x (k : Key) (s : State), s.key.get k = true → (∀ j : Key, j < k → s.key.get j = false) →
    ∃ v, exec (.ldVxK x) s = .next { s with v := v } ∧
      (v.get x).toNat = k.val ∧ ∀ r, r ≠ x → v.get r = s.v.get r) ∧
  (∀ x (s : State), (∀ j : Key, s.key.get j = false) → exec (.ldVxK x) s = .next { s with pc := s.pc - 2 })

/-! ## What instructions leave alone -/

/-- 10_state.md R32: no instruction writes a register but its destination and, where VF is its flag, VF. -/
def Obligations.OnlyNamedRegistersChange : Prop :=
  ∀ (i : Instr) (s t : State) (r : Reg), exec i s = .next t → writesReg i r = false → t.v.get r = s.v.get r

/-- Every byte of memory outside what an instruction stores reads as before: FX33 stores 3 bytes and FX55 x + 1, from I on,
and no other instruction stores (20_memory.md R83). -/
def Obligations.OnlyStoredBytesChange : Prop :=
  ∀ (i : Instr) (s t : State), Memory.wf s.mem → exec i s = .next t →
    ∀ a, Outside s (bytesStored i) a → t.memRead a = s.memRead a

/-- Each other piece of state is written only by the instructions the spec gives it (10_state.md R38, R39, R42, R43, R44,
R46, R47, R48): I, the stack, the timers, the user flags, the framebuffer and its mode, STATUS; no instruction writes a
key, ACC or what belongs to the loop, and only CXNN draws a random byte. -/
def Obligations.OtherStateHasFewWriters : Prop :=
  ∀ (i : Instr) (s t : State), exec i s = .next t →
    ((∀ nnn x, i ≠ .ldI nnn ∧ i ≠ .addI x ∧ i ≠ .ldF x ∧ i ≠ .ldHF x ∧ i ≠ .storeRegs x ∧ i ≠ .loadRegs x) →
      t.i = s.i) ∧
    ((∀ nnn, i ≠ .call nnn ∧ i ≠ .ret) → t.stack = s.stack ∧ t.sp = s.sp) ∧
    ((∀ x, i ≠ .ldDT x) → t.dt = s.dt) ∧ ((∀ x, i ≠ .ldST x) → t.st = s.st) ∧
    ((∀ x, i ≠ .saveFlags x) → t.uf = s.uf) ∧
    ((∀ n x y, i ≠ .cls ∧ i ≠ .scd n ∧ i ≠ .scr ∧ i ≠ .scl ∧ i ≠ .low ∧ i ≠ .high ∧ i ≠ .drw x y n) →
      t.fb = s.fb) ∧
    (i ≠ .low ∧ i ≠ .high → t.fb.mode = s.fb.mode) ∧
    ((∀ nnn x, i ≠ .exit ∧ i ≠ .call nnn ∧ i ≠ .ret ∧ i ≠ .skp x ∧ i ≠ .sknp x) → t.status = s.status) ∧
    ((∀ x nn, i ≠ .rnd x nn) → t.randoms = s.randoms ∧ t.draws = s.draws) ∧
    t.key = s.key ∧ t.acc = s.acc ∧ t.place = s.place ∧ t.turns = s.turns ∧
    t.resetQueued = s.resetQueued ∧ t.cancelRequested = s.cancelRequested ∧ t.readings = s.readings

/-- No instruction reads the sound timer: with another value in it, every instruction gives the same outcome but for that
value, and FX18 the very same (10_state.md R42). -/
def Obligations.SoundTimerIsNeverRead : Prop :=
  ∀ (i : Instr) (s : State) (b : Byte),
    ((∀ x, i ≠ .ldST x) → exec i { s with st := b } = onNext (fun t => { t with st := b }) (exec i s)) ∧
    ((∃ x, i = .ldST x) → exec i { s with st := b } = exec i s)

/-! ## Faults and stops -/

/-- Whatever instruction ends Faulted, it is one of the four that can, with its own code and for its own reason, and its
state is the one before it but for STATUS and the report (60_exceptions.md R400 to R404, R409, R411; the state left is the
spec's own decision, D17, and so is BadKeyIndex, D18). -/
def Obligations.FaultsArePreciseAndFew : Prop :=
  ∀ (i : Instr) (s t : State) (code : FaultCode), s.status = .running → exec i s = .next t →
    t.status = .faulted code →
    t = { s with status := .faulted code, outputs := s.outputs ++ [s.faultReport code] } ∧
    ((code = .stackOverflow ∧ s.sp.val = 16 ∧ ∃ nnn, i = .call nnn) ∨
     (code = .stackUnderflow ∧ s.sp.val = 0 ∧ i = .ret) ∨
     (code = .badKeyIndex ∧ ∃ x, 0xF < (s.v.get x).toNat ∧ (i = .skp x ∨ i = .sknp x)))

/-- While the engine is Idle, Halted or Faulted and the host does nothing, nothing changes: no CPU step, no tick, no redraw
(60_exceptions.md R426, the spec's own decisions D19 and D38). -/
def Obligations.StoppedEngineStaysAsItIs : Prop :=
  ∀ (k : Nat) (s : State), s.turns = [] → s.status ≠ .running → core.run k s = .next s

/-- A step stops only where the host loads a program while the engine runs, and then as refused (60_exceptions.md R408;
70_reset_and_hazards.md R464); that it stops there is the model's choice (log 9). -/
def Obligations.StepStopsOnlyOnLoadWhileRunning : Prop :=
  ∀ s : State, (∃ t, step s = .next t) ∨
    (s.status = .running ∧ (∃ bytes rest, s.turns = .host (.load bytes) :: rest) ∧
      step s = .refused .loadWhileRunning)

/-! ## The dual-rate loop -/

/-- 60_exceptions.md R430, R431, R433: one I/O tick of the running loop: the timers, floored at zero, then the tone if ST
went from 1 to 0, then the flush; one period is taken off ACC (R420). That a tick with its subtraction
is one step, taken where ACC holds a period, is the model's choice (log 6), and that no tone comes but from a tick the
spec's own decision (D24). -/
def Obligations.IoTickCountsToneFlush : Prop :=
  ∀ s : State, s.turns = [] → s.status = .running → s.place = .top → Config.ioPeriod ≤ s.acc →
    ∃ dt st : Byte, step s = .next { s with
        dt := dt, st := st, acc := s.acc - Config.ioPeriod, fb := { s.fb with dirty := false }
        outputs := s.outputs ++ (if s.st = 1 then [.toneElapsed] else []) ++
          (if s.fb.dirty then [.redraw s.fb.pixelBytes s.fb.mode.width s.fb.mode.height] else []) } ∧
      dt.toNat = s.dt.toNat - 1 ∧ st.toNat = s.st.toNat - 1

/-- 40_display.md R159 and 60_exceptions.md R442: the pixel buffer of a redraw is H×W bytes, row by row, 1 on and 0 off. -/
def Obligations.RedrawCarriesThePixels : Prop :=
  ∀ fb : Framebuffer, fb.wf →
    fb.pixelBytes.length = fb.mode.height * fb.mode.width ∧
    ∀ x y, x < fb.mode.width → y < fb.mode.height →
      fb.pixelBytes[y * fb.mode.width + x]? = some (if fb.get x y then 1 else 0)

/-- The clock adds a non-negative time to ACC, and every non-negative rational number of seconds can be what it adds
(60_exceptions.md R423, the spec's own decision D22; the supplied readings are the model's, log 4). -/
def Obligations.ClockAddsAnyElapsedTime : Prop :=
  (∀ s : State, s.turns = [] → s.status = .running → s.place = .clock → ∃ d : Rat, 0 ≤ d ∧
    step s = .next { s with acc := s.acc + d, place := .top, readings := s.readings.tail, draws := s.draws + 1 }) ∧
  (∀ d : Rat, 0 ≤ d → ∃ r : Config.Reading, ∀ (s : State) rest, s.turns = [] → s.status = .running →
    s.place = .clock → s.readings = r :: rest →
    step s = .next { s with acc := s.acc + d, place := .top, readings := rest, draws := s.draws + 1 })

/-- The catch-up runs floor(ACC / P) ticks and keeps what is left of ACC, at least 0 and below one period; the timers come
down by as many, floored at zero, and no register, PC or memory byte changes (60_exceptions.md R424). -/
def Obligations.CatchUpRunsWholePeriods : Prop :=
  ∀ (s : State) (k : Nat), s.turns = [] → s.status = .running → s.place = .top → 0 ≤ s.acc →
    (k : Rat) * Config.ioPeriod ≤ s.acc → s.acc < ((k : Rat) + 1) * Config.ioPeriod →
    ∃ t : State, core.run k s = .next t ∧ t.acc = s.acc - (k : Rat) * Config.ioPeriod ∧
      0 ≤ t.acc ∧ t.acc < Config.ioPeriod ∧
      t.dt.toNat = s.dt.toNat - k ∧ t.st.toNat = s.st.toNat - k ∧
      t.v = s.v ∧ t.i = s.i ∧ t.pc = s.pc ∧ t.mem = s.mem ∧ t.stack = s.stack ∧ t.sp = s.sp ∧ t.uf = s.uf ∧
      t.key = s.key ∧ t.fb.rows = s.fb.rows ∧ t.fb.mode = s.fb.mode ∧ t.status = s.status ∧
      t.place = .top ∧ t.turns = []

/-! ## The host's transactions -/

/-- 60_exceptions.md R441: the key flag is overwritten, between any two transitions and whatever STATUS is. -/
def Obligations.KeyDeliveryOverwrites : Prop :=
  ∀ (s : State) (k : Key) (down : Bool) rest, s.turns = .host (.keySet k down) :: rest →
    ∃ key, step s = .next { s with turns := rest, key := key } ∧
      key.get k = down ∧ ∀ j, j ≠ k → key.get j = s.key.get j

/-- 70_reset_and_hazards.md R462 and 60_exceptions.md R447: with the engine stopped the reset procedure runs at once; while
Running the request is queued, which changes nothing else, and at the start of the next iteration the procedure runs
and that iteration's CPU step comes next. The values it leaves are the spec's own decisions (D10, D11, D12, D30, D38).
That a reset applied at once also uses up one still queued when a run ended (log 8), and that the start of an iteration
is a transition of its own (log 6, log 17), are the model's choices. -/
def Obligations.ResetProcedure : Prop :=
  (∀ (s : State) rest, s.turns = .host .reset :: rest → s.status ≠ .running →
    ∃ t, step s = .next t ∧ State.ResetTo { s with turns := rest } t) ∧
  (∀ (s : State) rest, s.turns = .host .reset :: rest → s.status = .running →
    step s = .next { s with turns := rest, resetQueued := true }) ∧
  (∀ s : State, s.turns = [] → s.status = .running → s.place = .top → s.acc < Config.ioPeriod →
    s.cancelRequested = false → s.resetQueued = true →
    ∃ t : State, s.ResetTo t ∧ step s = .next { t with place := .step } ∧ State.Fetching { t with place := .step })

/-- 70_reset_and_hazards.md R461 and 60_exceptions.md R421: Start runs an Idle engine and does nothing to any other; a
cancellation makes the running loop Idle at its next iteration, before any CPU step, with all other state kept (the
spec's own decision, D38). That a Cancel on a stopped engine has no effect, that a cancellation uses its request up, and
that a reset still queued then stays queued, are the model's choices (log 8). -/
def Obligations.StartAndCancel : Prop :=
  (∀ (s : State) rest, s.turns = .host .start :: rest → s.status = .idle →
    step s = .next { s with turns := rest, status := .running }) ∧
  (∀ (s : State) rest, s.turns = .host .start :: rest → s.status ≠ .idle →
    step s = .next { s with turns := rest }) ∧
  (∀ (s : State) rest, s.turns = .host .cancel :: rest → s.status = .running →
    step s = .next { s with turns := rest, cancelRequested := true }) ∧
  (∀ (s : State) rest, s.turns = .host .cancel :: rest → s.status ≠ .running →
    step s = .next { s with turns := rest }) ∧
  (∀ s : State, s.turns = [] → s.status = .running → s.place = .top → s.acc < Config.ioPeriod →
    s.cancelRequested = true → step s = .next { s with status := .idle, cancelRequested := false })

/-- 70_reset_and_hazards.md R464, R465: a program that fits is copied to 0x200 on and changes nothing else; one that does not
writes no byte and is reported (60_exceptions.md R407, R446); while the engine runs a load is refused. What a load leaves
is the spec's own decision (D28); that the model stops at a load while Running is its own choice (log 9). -/
def Obligations.ProgramLoad : Prop :=
  (∀ (s : State) bytes rest, Memory.wf s.mem → s.turns = .host (.load bytes) :: rest → s.status ≠ .running →
    bytes.length ≤ 3584 → ∃ m : Memory, step s = .next { s with turns := rest, mem := m } ∧ Memory.wf m ∧
      (∀ k, (h : k < bytes.length) → State.memRead { s with mem := m } (0x200 + k) = bytes[k]) ∧
      ∀ a, a < 4096 → (a < 0x200 ∨ 0x200 + bytes.length ≤ a) → State.memRead { s with mem := m } a = s.memRead a) ∧
  (∀ (s : State) bytes rest, s.turns = .host (.load bytes) :: rest → s.status ≠ .running → 3584 < bytes.length →
    step s = .next { s with turns := rest, outputs := s.outputs ++ [.status .loadError] }) ∧
  (∀ (s : State) bytes rest, s.turns = .host (.load bytes) :: rest → s.status = .running →
    step s = .refused .loadWhileRunning)

/-- From power-on, one load, one start and the start of the first iteration, in that order, leave the machine about to fetch
the program's first word at 0x200, the program byte by byte from there on, and everything but STATUS, the loop's place
and those bytes at its power-on value (70_reset_and_hazards.md R464, R466, 60_exceptions.md R420; what a load leaves is
the spec's own decision, D28; the start of an iteration as a transition of its own is the model's choice, log 6). -/
def Obligations.BootReachesFirstFetch : Prop :=
  ∀ (hi lo : Byte) (rest : List Byte), rest.length ≤ 3582 → ∃ (t : State) (m : Memory),
    core.run 3 { State.reset with turns := [.host (.load (hi :: lo :: rest)), .host .start] } = .next t ∧
    t = { State.reset with mem := m, status := .running, place := .step } ∧
    t.Fetching ∧ t.pc = 0x200 ∧ t.wordAt t.pc = hi ++ lo ∧ Memory.wf m ∧
    (∀ k, (h : k < (hi :: lo :: rest).length) → t.memRead (0x200 + k) = (hi :: lo :: rest)[k]) ∧
    ∀ a, a < 4096 → (a < 0x200 ∨ 0x200 + (hi :: lo :: rest).length ≤ a) → t.memRead a = State.reset.memRead a

/-! ## Reset values and the invariant -/

/-- 10_state.md R53: the machine at power-on. The font bytes are the default of R57, which the spec marks as general
knowledge (log 5); the values but PC and the font's place are the spec's own decisions (D10 to D13, D25, D30, D37, D38). -/
def Obligations.PowerOnValues : Prop :=
  (∀ a, a < 80 → State.reset.memRead a = Config.fontLo.getD a 0) ∧
  (∀ a, 80 ≤ a → a < 4096 → State.reset.memRead a = 0) ∧
  (∀ r : Reg, State.reset.v.get r = 0 ∧ State.reset.stack.get r = 0 ∧ State.reset.uf.get r = 0 ∧
    State.reset.key.get r = false) ∧
  State.reset.i = 0 ∧ State.reset.pc = 0x200 ∧ State.reset.sp = 0 ∧ State.reset.dt = 0 ∧ State.reset.st = 0 ∧
  State.reset.fb.mode = .lo ∧ State.reset.fb.AllOff ∧ State.reset.fb.dirty = true ∧
  State.reset.status = .idle ∧ State.reset.acc = 0 ∧ State.reset.outputs = []

/-- The invariant holds at power-on. -/
def Obligations.PowerOnMeetsInvariant : Prop := State.reset.Inv

/-- Every step keeps the invariant: the canonical memory, the grid of its mode's size, ACC at least 0 and the loop's
bookkeeping (10_state.md R46, R48; 60_exceptions.md R424). -/
def Obligations.EveryStepKeepsInvariant : Prop :=
  ∀ s t : State, s.Inv → step s = .next t → t.Inv

/-! ## Schedules -/

/-- A listed turn of the core is the transition the core makes where no turn is listed, with the rest of the schedule kept: so
what the statements above say of a machine with no turn listed holds at every core turn of every schedule (the
interleaving is 60_exceptions.md R420, R441; the schedule as a list is the model's choice, log 7). -/
def Obligations.ListedCoreTurnIsTheCoresTurn : Prop :=
  ∀ (s : State) rest, s.turns = .core :: rest →
    step s = onNext (fun t => { t with turns := rest }) (step { s with turns := [] })

/-- The start of an iteration and its CPU step are two transitions: a start with neither request changes nothing but the
loop's place; and a key delivery after a queued reset and before that iteration's CPU step is seen by that CPU step: as
FX0A, it takes the key although the reset cleared every key flag (60_exceptions.md R420, R422, R441, R447; the spec's own
decision D29). That the start of an iteration is a transition of its own, and the schedule as a list, are the model's
choices (log 6, log 17, log 7). -/
def Obligations.IterationBeginsBeforeItsCpuStep : Prop :=
  (∀ s : State, s.turns = [] → s.status = .running → s.place = .top → s.acc < Config.ioPeriod →
    s.cancelRequested = false → s.resetQueued = false → step s = .next { s with place := .step }) ∧
  (∀ (s : State) (k : Key) (x : Reg), s.turns = [.core, .host (.keySet k true), .core] → s.status = .running →
    s.place = .top → s.acc < Config.ioPeriod → s.cancelRequested = false → s.resetQueued = true →
    decodeWord (s.wordAt 0x200) = .ok (.ldVxK x) →
    ∃ u : State, core.run 3 s = .next u ∧ u.pc = 0x202 ∧ (u.v.get x).toNat = k.val ∧
      (∀ r, r ≠ x → u.v.get r = 0) ∧ ∀ j, u.key.get j = decide (j = k))
end

