-- ==== Sys2Proof/Laws/Decode.lean ====
section
/-! SUPPORT. The fields of an instruction word: what a mask fixes, what the encoder's words hold, and the two bytes of a
word. -/

namespace Sys2Proof

/-- A mask that covers a field fixes the field. -/
theorem field_of_mask {w m v : Word} (k n : Nat) (h : w &&& m = v) (hm : m.extractLsb' k n = BitVec.allOnes n) :
    w.extractLsb' k n = v.extractLsb' k n := by
  rw [← h, BitVec.extractLsb'_and, hm, BitVec.and_allOnes]

/-- A field inside the high part of a word put together. -/
theorem extractLsb'_append_high {a b : Nat} (p : BitVec a) (q : BitVec b) (k n : Nat) :
    (p ++ q).extractLsb' (b + k) n = p.extractLsb' k n := by
  apply BitVec.eq_of_getLsbD_eq
  intro i hi
  simp only [BitVec.getLsbD_extractLsb', BitVec.getLsbD_append, hi, decide_true, Bool.true_and]
  rw [if_neg (by omega), show b + k + i - b = k + i by omega]

/-- A field inside the low part of a word put together. -/
theorem extractLsb'_append_low {a b : Nat} (p : BitVec a) (q : BitVec b) (k n : Nat) (h : k + n ≤ b) :
    (p ++ q).extractLsb' k n = q.extractLsb' k n := by
  apply BitVec.eq_of_getLsbD_eq
  intro i hi
  simp only [BitVec.getLsbD_extractLsb', BitVec.getLsbD_append, hi, decide_true, Bool.true_and]
  rw [if_pos (by omega)]

/-- The bits of two words put together part by part. -/
theorem append_and_append {a b : Nat} (p r : BitVec a) (q s : BitVec b) :
    (p ++ q) &&& (r ++ s) = (p &&& r) ++ (q &&& s) := by
  apply BitVec.eq_of_getLsbD_eq
  intro i hi
  simp only [BitVec.getLsbD_and, BitVec.getLsbD_append]
  split_ifs <;> rfl

theorem joinBytes_highByte_lowByte (w : Word) : joinBytes (highByte w) (lowByte w) = w := by
  apply BitVec.eq_of_getLsbD_eq
  intro i hi
  simp only [joinBytes, highByte, lowByte, BitVec.getLsbD_append, BitVec.getLsbD_extractLsb']
  split_ifs with h
  · simp [h]
  · simp [show i - 8 < 8 by omega, show 8 + (i - 8) = i by omega]

theorem highByte_joinBytes (hi lo : Byte) : highByte (joinBytes hi lo) = hi :=
  (extractLsb'_append_high hi lo 0 8).trans BitVec.extractLsb'_eq_self

theorem lowByte_joinBytes (hi lo : Byte) : lowByte (joinBytes hi lo) = lo :=
  (extractLsb'_append_low hi lo 0 8 (by omega)).trans BitVec.extractLsb'_eq_self

section
variable (g n : BitVec 4) (x y : Reg) (nn : Byte) (nnn : Addr)

theorem group_packXNN : group (packXNN g x nn) = g :=
  (extractLsb'_append_high (g ++ BitVec.ofFin (w := 4) x) nn 4 4).trans
    ((extractLsb'_append_high g (BitVec.ofFin (w := 4) x) 0 4).trans BitVec.extractLsb'_eq_self)

theorem xOf_packXNN : xOf (packXNN g x nn) = x :=
  congrArg BitVec.toFin ((extractLsb'_append_high (g ++ BitVec.ofFin (w := 4) x) nn 0 4).trans
    ((extractLsb'_append_low g (BitVec.ofFin (w := 4) x) 0 4 (by omega)).trans BitVec.extractLsb'_eq_self))

theorem nnOf_packXNN : nnOf (packXNN g x nn) = nn :=
  (extractLsb'_append_low (g ++ BitVec.ofFin (w := 4) x) nn 0 8 (by omega)).trans BitVec.extractLsb'_eq_self

theorem group_packXYN : group (packXYN g x y n) = g :=
  (extractLsb'_append_high (g ++ BitVec.ofFin (w := 4) x ++ BitVec.ofFin (w := 4) y) n 8 4).trans
    ((extractLsb'_append_high (g ++ BitVec.ofFin (w := 4) x) (BitVec.ofFin (w := 4) y) 4 4).trans
      ((extractLsb'_append_high g (BitVec.ofFin (w := 4) x) 0 4).trans BitVec.extractLsb'_eq_self))

theorem xOf_packXYN : xOf (packXYN g x y n) = x :=
  congrArg BitVec.toFin
    ((extractLsb'_append_high (g ++ BitVec.ofFin (w := 4) x ++ BitVec.ofFin (w := 4) y) n 4 4).trans
      ((extractLsb'_append_high (g ++ BitVec.ofFin (w := 4) x) (BitVec.ofFin (w := 4) y) 0 4).trans
        ((extractLsb'_append_low g (BitVec.ofFin (w := 4) x) 0 4 (by omega)).trans BitVec.extractLsb'_eq_self)))

theorem yOf_packXYN : yOf (packXYN g x y n) = y :=
  congrArg BitVec.toFin
    ((extractLsb'_append_high (g ++ BitVec.ofFin (w := 4) x ++ BitVec.ofFin (w := 4) y) n 0 4).trans
      ((extractLsb'_append_low (g ++ BitVec.ofFin (w := 4) x) (BitVec.ofFin (w := 4) y) 0 4 (by omega)).trans
        BitVec.extractLsb'_eq_self))

theorem nOf_packXYN : nOf (packXYN g x y n) = n :=
  (extractLsb'_append_low (g ++ BitVec.ofFin (w := 4) x ++ BitVec.ofFin (w := 4) y) n 0 4 (by omega)).trans
    BitVec.extractLsb'_eq_self

theorem group_packNNN : group (packNNN g nnn) = g :=
  (extractLsb'_append_high g nnn 0 4).trans BitVec.extractLsb'_eq_self

theorem nnnOf_packNNN : nnnOf (packNNN g nnn) = nnn :=
  (extractLsb'_append_low g nnn 0 12 (by omega)).trans BitVec.extractLsb'_eq_self

theorem packXNN_and (m₁ m₂ : BitVec 4) (m₃ : Byte) :
    packXNN g x nn &&& (m₁ ++ m₂ ++ m₃) = (g &&& m₁) ++ (BitVec.ofFin (w := 4) x &&& m₂) ++ (nn &&& m₃) :=
  (append_and_append (g ++ BitVec.ofFin (w := 4) x) (m₁ ++ m₂) nn m₃).trans
    (congrArg (· ++ (nn &&& m₃)) (append_and_append g m₁ (BitVec.ofFin (w := 4) x) m₂))

theorem packXYN_and (m₁ m₂ m₃ m₄ : BitVec 4) :
    packXYN g x y n &&& (m₁ ++ m₂ ++ m₃ ++ m₄) =
      (g &&& m₁) ++ (BitVec.ofFin (w := 4) x &&& m₂) ++ (BitVec.ofFin (w := 4) y &&& m₃) ++ (n &&& m₄) :=
  (append_and_append (g ++ BitVec.ofFin (w := 4) x ++ BitVec.ofFin (w := 4) y) (m₁ ++ m₂ ++ m₃) n m₄).trans
    (congrArg (· ++ (n &&& m₄))
      ((append_and_append (g ++ BitVec.ofFin (w := 4) x) (m₁ ++ m₂) (BitVec.ofFin (w := 4) y) m₃).trans
        (congrArg (· ++ (BitVec.ofFin (w := 4) y &&& m₃)) (append_and_append g m₁ (BitVec.ofFin (w := 4) x) m₂))))

theorem packNNN_and (m₁ : BitVec 4) (m₂ : Addr) :
    packNNN g nnn &&& (m₁ ++ m₂) = (g &&& m₁) ++ (nnn &&& m₂) :=
  append_and_append g m₁ nnn m₂

end

end Sys2Proof
end

