-- ==== Sys2Proof/Laws/State.lean ====
section
/-! SUPPORT. What each named update of State leaves in each field, one lemma a field, true by computation. -/

namespace Sys2Proof.Machine

variable (s : State)

/-! ### `State.emit` -/

@[simp] theorem State.emit_mem (o : Output) : (s.emit o).mem = s.mem := rfl
@[simp] theorem State.emit_v (o : Output) : (s.emit o).v = s.v := rfl
@[simp] theorem State.emit_i (o : Output) : (s.emit o).i = s.i := rfl
@[simp] theorem State.emit_pc (o : Output) : (s.emit o).pc = s.pc := rfl
@[simp] theorem State.emit_stack (o : Output) : (s.emit o).stack = s.stack := rfl
@[simp] theorem State.emit_sp (o : Output) : (s.emit o).sp = s.sp := rfl
@[simp] theorem State.emit_uf (o : Output) : (s.emit o).uf = s.uf := rfl
@[simp] theorem State.emit_dt (o : Output) : (s.emit o).dt = s.dt := rfl
@[simp] theorem State.emit_st (o : Output) : (s.emit o).st = s.st := rfl
@[simp] theorem State.emit_key (o : Output) : (s.emit o).key = s.key := rfl
@[simp] theorem State.emit_fb (o : Output) : (s.emit o).fb = s.fb := rfl
@[simp] theorem State.emit_status (o : Output) : (s.emit o).status = s.status := rfl
@[simp] theorem State.emit_acc (o : Output) : (s.emit o).acc = s.acc := rfl
@[simp] theorem State.emit_place (o : Output) : (s.emit o).place = s.place := rfl
@[simp] theorem State.emit_resetQueued (o : Output) : (s.emit o).resetQueued = s.resetQueued := rfl
@[simp] theorem State.emit_cancelRequested (o : Output) : (s.emit o).cancelRequested = s.cancelRequested := rfl
@[simp] theorem State.emit_turns (o : Output) : (s.emit o).turns = s.turns := rfl
@[simp] theorem State.emit_outputs (o : Output) : (s.emit o).outputs = s.outputs ++ [o] := rfl
@[simp] theorem State.emit_randoms (o : Output) : (s.emit o).randoms = s.randoms := rfl
@[simp] theorem State.emit_readings (o : Output) : (s.emit o).readings = s.readings := rfl
@[simp] theorem State.emit_draws (o : Output) : (s.emit o).draws = s.draws := rfl

/-! ### `State.afterRandom` -/

@[simp] theorem State.afterRandom_mem : (s.afterRandom).mem = s.mem := rfl
@[simp] theorem State.afterRandom_v : (s.afterRandom).v = s.v := rfl
@[simp] theorem State.afterRandom_i : (s.afterRandom).i = s.i := rfl
@[simp] theorem State.afterRandom_pc : (s.afterRandom).pc = s.pc := rfl
@[simp] theorem State.afterRandom_stack : (s.afterRandom).stack = s.stack := rfl
@[simp] theorem State.afterRandom_sp : (s.afterRandom).sp = s.sp := rfl
@[simp] theorem State.afterRandom_uf : (s.afterRandom).uf = s.uf := rfl
@[simp] theorem State.afterRandom_dt : (s.afterRandom).dt = s.dt := rfl
@[simp] theorem State.afterRandom_st : (s.afterRandom).st = s.st := rfl
@[simp] theorem State.afterRandom_key : (s.afterRandom).key = s.key := rfl
@[simp] theorem State.afterRandom_fb : (s.afterRandom).fb = s.fb := rfl
@[simp] theorem State.afterRandom_status : (s.afterRandom).status = s.status := rfl
@[simp] theorem State.afterRandom_acc : (s.afterRandom).acc = s.acc := rfl
@[simp] theorem State.afterRandom_place : (s.afterRandom).place = s.place := rfl
@[simp] theorem State.afterRandom_resetQueued : (s.afterRandom).resetQueued = s.resetQueued := rfl
@[simp] theorem State.afterRandom_cancelRequested : (s.afterRandom).cancelRequested = s.cancelRequested := rfl
@[simp] theorem State.afterRandom_turns : (s.afterRandom).turns = s.turns := rfl
@[simp] theorem State.afterRandom_outputs : (s.afterRandom).outputs = s.outputs := rfl
@[simp] theorem State.afterRandom_randoms : (s.afterRandom).randoms = s.randoms.tail := rfl
@[simp] theorem State.afterRandom_readings : (s.afterRandom).readings = s.readings := rfl
@[simp] theorem State.afterRandom_draws : (s.afterRandom).draws = s.draws + 1 := rfl

/-! ### `State.readClock` -/

@[simp] theorem State.readClock_mem : (s.readClock).mem = s.mem := rfl
@[simp] theorem State.readClock_v : (s.readClock).v = s.v := rfl
@[simp] theorem State.readClock_i : (s.readClock).i = s.i := rfl
@[simp] theorem State.readClock_pc : (s.readClock).pc = s.pc := rfl
@[simp] theorem State.readClock_stack : (s.readClock).stack = s.stack := rfl
@[simp] theorem State.readClock_sp : (s.readClock).sp = s.sp := rfl
@[simp] theorem State.readClock_uf : (s.readClock).uf = s.uf := rfl
@[simp] theorem State.readClock_dt : (s.readClock).dt = s.dt := rfl
@[simp] theorem State.readClock_st : (s.readClock).st = s.st := rfl
@[simp] theorem State.readClock_key : (s.readClock).key = s.key := rfl
@[simp] theorem State.readClock_fb : (s.readClock).fb = s.fb := rfl
@[simp] theorem State.readClock_status : (s.readClock).status = s.status := rfl
@[simp] theorem State.readClock_acc : (s.readClock).acc = s.acc + s.reading.seconds := rfl
@[simp] theorem State.readClock_place : (s.readClock).place = .top := rfl
@[simp] theorem State.readClock_resetQueued : (s.readClock).resetQueued = s.resetQueued := rfl
@[simp] theorem State.readClock_cancelRequested : (s.readClock).cancelRequested = s.cancelRequested := rfl
@[simp] theorem State.readClock_turns : (s.readClock).turns = s.turns := rfl
@[simp] theorem State.readClock_outputs : (s.readClock).outputs = s.outputs := rfl
@[simp] theorem State.readClock_randoms : (s.readClock).randoms = s.randoms := rfl
@[simp] theorem State.readClock_readings : (s.readClock).readings = s.readings.tail := rfl
@[simp] theorem State.readClock_draws : (s.readClock).draws = s.draws + 1 := rfl

/-! ### `State.setReg` -/

@[simp] theorem State.setReg_mem (r : Reg) (b : Byte) : (s.setReg r b).mem = s.mem := rfl
@[simp] theorem State.setReg_v (r : Reg) (b : Byte) : (s.setReg r b).v = s.v.set r b := rfl
@[simp] theorem State.setReg_i (r : Reg) (b : Byte) : (s.setReg r b).i = s.i := rfl
@[simp] theorem State.setReg_pc (r : Reg) (b : Byte) : (s.setReg r b).pc = s.pc := rfl
@[simp] theorem State.setReg_stack (r : Reg) (b : Byte) : (s.setReg r b).stack = s.stack := rfl
@[simp] theorem State.setReg_sp (r : Reg) (b : Byte) : (s.setReg r b).sp = s.sp := rfl
@[simp] theorem State.setReg_uf (r : Reg) (b : Byte) : (s.setReg r b).uf = s.uf := rfl
@[simp] theorem State.setReg_dt (r : Reg) (b : Byte) : (s.setReg r b).dt = s.dt := rfl
@[simp] theorem State.setReg_st (r : Reg) (b : Byte) : (s.setReg r b).st = s.st := rfl
@[simp] theorem State.setReg_key (r : Reg) (b : Byte) : (s.setReg r b).key = s.key := rfl
@[simp] theorem State.setReg_fb (r : Reg) (b : Byte) : (s.setReg r b).fb = s.fb := rfl
@[simp] theorem State.setReg_status (r : Reg) (b : Byte) : (s.setReg r b).status = s.status := rfl
@[simp] theorem State.setReg_acc (r : Reg) (b : Byte) : (s.setReg r b).acc = s.acc := rfl
@[simp] theorem State.setReg_place (r : Reg) (b : Byte) : (s.setReg r b).place = s.place := rfl
@[simp] theorem State.setReg_resetQueued (r : Reg) (b : Byte) : (s.setReg r b).resetQueued = s.resetQueued := rfl
@[simp] theorem State.setReg_cancelRequested (r : Reg) (b : Byte) : (s.setReg r b).cancelRequested = s.cancelRequested := rfl
@[simp] theorem State.setReg_turns (r : Reg) (b : Byte) : (s.setReg r b).turns = s.turns := rfl
@[simp] theorem State.setReg_outputs (r : Reg) (b : Byte) : (s.setReg r b).outputs = s.outputs := rfl
@[simp] theorem State.setReg_randoms (r : Reg) (b : Byte) : (s.setReg r b).randoms = s.randoms := rfl
@[simp] theorem State.setReg_readings (r : Reg) (b : Byte) : (s.setReg r b).readings = s.readings := rfl
@[simp] theorem State.setReg_draws (r : Reg) (b : Byte) : (s.setReg r b).draws = s.draws := rfl

/-! ### `State.setFlag` -/

@[simp] theorem State.setFlag_mem (f : Bool) : (s.setFlag f).mem = s.mem := rfl
@[simp] theorem State.setFlag_v (f : Bool) : (s.setFlag f).v = s.v.set vf (flagByte f) := rfl
@[simp] theorem State.setFlag_i (f : Bool) : (s.setFlag f).i = s.i := rfl
@[simp] theorem State.setFlag_pc (f : Bool) : (s.setFlag f).pc = s.pc := rfl
@[simp] theorem State.setFlag_stack (f : Bool) : (s.setFlag f).stack = s.stack := rfl
@[simp] theorem State.setFlag_sp (f : Bool) : (s.setFlag f).sp = s.sp := rfl
@[simp] theorem State.setFlag_uf (f : Bool) : (s.setFlag f).uf = s.uf := rfl
@[simp] theorem State.setFlag_dt (f : Bool) : (s.setFlag f).dt = s.dt := rfl
@[simp] theorem State.setFlag_st (f : Bool) : (s.setFlag f).st = s.st := rfl
@[simp] theorem State.setFlag_key (f : Bool) : (s.setFlag f).key = s.key := rfl
@[simp] theorem State.setFlag_fb (f : Bool) : (s.setFlag f).fb = s.fb := rfl
@[simp] theorem State.setFlag_status (f : Bool) : (s.setFlag f).status = s.status := rfl
@[simp] theorem State.setFlag_acc (f : Bool) : (s.setFlag f).acc = s.acc := rfl
@[simp] theorem State.setFlag_place (f : Bool) : (s.setFlag f).place = s.place := rfl
@[simp] theorem State.setFlag_resetQueued (f : Bool) : (s.setFlag f).resetQueued = s.resetQueued := rfl
@[simp] theorem State.setFlag_cancelRequested (f : Bool) : (s.setFlag f).cancelRequested = s.cancelRequested := rfl
@[simp] theorem State.setFlag_turns (f : Bool) : (s.setFlag f).turns = s.turns := rfl
@[simp] theorem State.setFlag_outputs (f : Bool) : (s.setFlag f).outputs = s.outputs := rfl
@[simp] theorem State.setFlag_randoms (f : Bool) : (s.setFlag f).randoms = s.randoms := rfl
@[simp] theorem State.setFlag_readings (f : Bool) : (s.setFlag f).readings = s.readings := rfl
@[simp] theorem State.setFlag_draws (f : Bool) : (s.setFlag f).draws = s.draws := rfl

/-! ### `State.setI` -/

@[simp] theorem State.setI_mem (a : Word) : (s.setI a).mem = s.mem := rfl
@[simp] theorem State.setI_v (a : Word) : (s.setI a).v = s.v := rfl
@[simp] theorem State.setI_i (a : Word) : (s.setI a).i = a := rfl
@[simp] theorem State.setI_pc (a : Word) : (s.setI a).pc = s.pc := rfl
@[simp] theorem State.setI_stack (a : Word) : (s.setI a).stack = s.stack := rfl
@[simp] theorem State.setI_sp (a : Word) : (s.setI a).sp = s.sp := rfl
@[simp] theorem State.setI_uf (a : Word) : (s.setI a).uf = s.uf := rfl
@[simp] theorem State.setI_dt (a : Word) : (s.setI a).dt = s.dt := rfl
@[simp] theorem State.setI_st (a : Word) : (s.setI a).st = s.st := rfl
@[simp] theorem State.setI_key (a : Word) : (s.setI a).key = s.key := rfl
@[simp] theorem State.setI_fb (a : Word) : (s.setI a).fb = s.fb := rfl
@[simp] theorem State.setI_status (a : Word) : (s.setI a).status = s.status := rfl
@[simp] theorem State.setI_acc (a : Word) : (s.setI a).acc = s.acc := rfl
@[simp] theorem State.setI_place (a : Word) : (s.setI a).place = s.place := rfl
@[simp] theorem State.setI_resetQueued (a : Word) : (s.setI a).resetQueued = s.resetQueued := rfl
@[simp] theorem State.setI_cancelRequested (a : Word) : (s.setI a).cancelRequested = s.cancelRequested := rfl
@[simp] theorem State.setI_turns (a : Word) : (s.setI a).turns = s.turns := rfl
@[simp] theorem State.setI_outputs (a : Word) : (s.setI a).outputs = s.outputs := rfl
@[simp] theorem State.setI_randoms (a : Word) : (s.setI a).randoms = s.randoms := rfl
@[simp] theorem State.setI_readings (a : Word) : (s.setI a).readings = s.readings := rfl
@[simp] theorem State.setI_draws (a : Word) : (s.setI a).draws = s.draws := rfl

/-! ### `State.memWrite` -/

@[simp] theorem State.memWrite_mem (a : Nat) (b : Byte) : (s.memWrite a b).mem = Memory.write s.mem (a % Config.memSize) b := rfl
@[simp] theorem State.memWrite_v (a : Nat) (b : Byte) : (s.memWrite a b).v = s.v := rfl
@[simp] theorem State.memWrite_i (a : Nat) (b : Byte) : (s.memWrite a b).i = s.i := rfl
@[simp] theorem State.memWrite_pc (a : Nat) (b : Byte) : (s.memWrite a b).pc = s.pc := rfl
@[simp] theorem State.memWrite_stack (a : Nat) (b : Byte) : (s.memWrite a b).stack = s.stack := rfl
@[simp] theorem State.memWrite_sp (a : Nat) (b : Byte) : (s.memWrite a b).sp = s.sp := rfl
@[simp] theorem State.memWrite_uf (a : Nat) (b : Byte) : (s.memWrite a b).uf = s.uf := rfl
@[simp] theorem State.memWrite_dt (a : Nat) (b : Byte) : (s.memWrite a b).dt = s.dt := rfl
@[simp] theorem State.memWrite_st (a : Nat) (b : Byte) : (s.memWrite a b).st = s.st := rfl
@[simp] theorem State.memWrite_key (a : Nat) (b : Byte) : (s.memWrite a b).key = s.key := rfl
@[simp] theorem State.memWrite_fb (a : Nat) (b : Byte) : (s.memWrite a b).fb = s.fb := rfl
@[simp] theorem State.memWrite_status (a : Nat) (b : Byte) : (s.memWrite a b).status = s.status := rfl
@[simp] theorem State.memWrite_acc (a : Nat) (b : Byte) : (s.memWrite a b).acc = s.acc := rfl
@[simp] theorem State.memWrite_place (a : Nat) (b : Byte) : (s.memWrite a b).place = s.place := rfl
@[simp] theorem State.memWrite_resetQueued (a : Nat) (b : Byte) : (s.memWrite a b).resetQueued = s.resetQueued := rfl
@[simp] theorem State.memWrite_cancelRequested (a : Nat) (b : Byte) : (s.memWrite a b).cancelRequested = s.cancelRequested := rfl
@[simp] theorem State.memWrite_turns (a : Nat) (b : Byte) : (s.memWrite a b).turns = s.turns := rfl
@[simp] theorem State.memWrite_outputs (a : Nat) (b : Byte) : (s.memWrite a b).outputs = s.outputs := rfl
@[simp] theorem State.memWrite_randoms (a : Nat) (b : Byte) : (s.memWrite a b).randoms = s.randoms := rfl
@[simp] theorem State.memWrite_readings (a : Nat) (b : Byte) : (s.memWrite a b).readings = s.readings := rfl
@[simp] theorem State.memWrite_draws (a : Nat) (b : Byte) : (s.memWrite a b).draws = s.draws := rfl

/-! ### `State.advance` -/

@[simp] theorem State.advance_mem : (s.advance).mem = s.mem := rfl
@[simp] theorem State.advance_v : (s.advance).v = s.v := rfl
@[simp] theorem State.advance_i : (s.advance).i = s.i := rfl
@[simp] theorem State.advance_pc : (s.advance).pc = s.pc + 2 := rfl
@[simp] theorem State.advance_stack : (s.advance).stack = s.stack := rfl
@[simp] theorem State.advance_sp : (s.advance).sp = s.sp := rfl
@[simp] theorem State.advance_uf : (s.advance).uf = s.uf := rfl
@[simp] theorem State.advance_dt : (s.advance).dt = s.dt := rfl
@[simp] theorem State.advance_st : (s.advance).st = s.st := rfl
@[simp] theorem State.advance_key : (s.advance).key = s.key := rfl
@[simp] theorem State.advance_fb : (s.advance).fb = s.fb := rfl
@[simp] theorem State.advance_status : (s.advance).status = s.status := rfl
@[simp] theorem State.advance_acc : (s.advance).acc = s.acc := rfl
@[simp] theorem State.advance_place : (s.advance).place = s.place := rfl
@[simp] theorem State.advance_resetQueued : (s.advance).resetQueued = s.resetQueued := rfl
@[simp] theorem State.advance_cancelRequested : (s.advance).cancelRequested = s.cancelRequested := rfl
@[simp] theorem State.advance_turns : (s.advance).turns = s.turns := rfl
@[simp] theorem State.advance_outputs : (s.advance).outputs = s.outputs := rfl
@[simp] theorem State.advance_randoms : (s.advance).randoms = s.randoms := rfl
@[simp] theorem State.advance_readings : (s.advance).readings = s.readings := rfl
@[simp] theorem State.advance_draws : (s.advance).draws = s.draws := rfl

/-! ### `State.rewind` -/

@[simp] theorem State.rewind_mem : (s.rewind).mem = s.mem := rfl
@[simp] theorem State.rewind_v : (s.rewind).v = s.v := rfl
@[simp] theorem State.rewind_i : (s.rewind).i = s.i := rfl
@[simp] theorem State.rewind_pc : (s.rewind).pc = s.pc - 2 := rfl
@[simp] theorem State.rewind_stack : (s.rewind).stack = s.stack := rfl
@[simp] theorem State.rewind_sp : (s.rewind).sp = s.sp := rfl
@[simp] theorem State.rewind_uf : (s.rewind).uf = s.uf := rfl
@[simp] theorem State.rewind_dt : (s.rewind).dt = s.dt := rfl
@[simp] theorem State.rewind_st : (s.rewind).st = s.st := rfl
@[simp] theorem State.rewind_key : (s.rewind).key = s.key := rfl
@[simp] theorem State.rewind_fb : (s.rewind).fb = s.fb := rfl
@[simp] theorem State.rewind_status : (s.rewind).status = s.status := rfl
@[simp] theorem State.rewind_acc : (s.rewind).acc = s.acc := rfl
@[simp] theorem State.rewind_place : (s.rewind).place = s.place := rfl
@[simp] theorem State.rewind_resetQueued : (s.rewind).resetQueued = s.resetQueued := rfl
@[simp] theorem State.rewind_cancelRequested : (s.rewind).cancelRequested = s.cancelRequested := rfl
@[simp] theorem State.rewind_turns : (s.rewind).turns = s.turns := rfl
@[simp] theorem State.rewind_outputs : (s.rewind).outputs = s.outputs := rfl
@[simp] theorem State.rewind_randoms : (s.rewind).randoms = s.randoms := rfl
@[simp] theorem State.rewind_readings : (s.rewind).readings = s.readings := rfl
@[simp] theorem State.rewind_draws : (s.rewind).draws = s.draws := rfl

/-! ### `State.jump` -/

@[simp] theorem State.jump_mem (a : Word) : (s.jump a).mem = s.mem := rfl
@[simp] theorem State.jump_v (a : Word) : (s.jump a).v = s.v := rfl
@[simp] theorem State.jump_i (a : Word) : (s.jump a).i = s.i := rfl
@[simp] theorem State.jump_pc (a : Word) : (s.jump a).pc = a &&& 0xFFF := rfl
@[simp] theorem State.jump_stack (a : Word) : (s.jump a).stack = s.stack := rfl
@[simp] theorem State.jump_sp (a : Word) : (s.jump a).sp = s.sp := rfl
@[simp] theorem State.jump_uf (a : Word) : (s.jump a).uf = s.uf := rfl
@[simp] theorem State.jump_dt (a : Word) : (s.jump a).dt = s.dt := rfl
@[simp] theorem State.jump_st (a : Word) : (s.jump a).st = s.st := rfl
@[simp] theorem State.jump_key (a : Word) : (s.jump a).key = s.key := rfl
@[simp] theorem State.jump_fb (a : Word) : (s.jump a).fb = s.fb := rfl
@[simp] theorem State.jump_status (a : Word) : (s.jump a).status = s.status := rfl
@[simp] theorem State.jump_acc (a : Word) : (s.jump a).acc = s.acc := rfl
@[simp] theorem State.jump_place (a : Word) : (s.jump a).place = s.place := rfl
@[simp] theorem State.jump_resetQueued (a : Word) : (s.jump a).resetQueued = s.resetQueued := rfl
@[simp] theorem State.jump_cancelRequested (a : Word) : (s.jump a).cancelRequested = s.cancelRequested := rfl
@[simp] theorem State.jump_turns (a : Word) : (s.jump a).turns = s.turns := rfl
@[simp] theorem State.jump_outputs (a : Word) : (s.jump a).outputs = s.outputs := rfl
@[simp] theorem State.jump_randoms (a : Word) : (s.jump a).randoms = s.randoms := rfl
@[simp] theorem State.jump_readings (a : Word) : (s.jump a).readings = s.readings := rfl
@[simp] theorem State.jump_draws (a : Word) : (s.jump a).draws = s.draws := rfl

/-! ### `State.halt` -/

@[simp] theorem State.halt_mem : (s.halt).mem = s.mem := rfl
@[simp] theorem State.halt_v : (s.halt).v = s.v := rfl
@[simp] theorem State.halt_i : (s.halt).i = s.i := rfl
@[simp] theorem State.halt_pc : (s.halt).pc = s.pc := rfl
@[simp] theorem State.halt_stack : (s.halt).stack = s.stack := rfl
@[simp] theorem State.halt_sp : (s.halt).sp = s.sp := rfl
@[simp] theorem State.halt_uf : (s.halt).uf = s.uf := rfl
@[simp] theorem State.halt_dt : (s.halt).dt = s.dt := rfl
@[simp] theorem State.halt_st : (s.halt).st = s.st := rfl
@[simp] theorem State.halt_key : (s.halt).key = s.key := rfl
@[simp] theorem State.halt_fb : (s.halt).fb = s.fb := rfl
@[simp] theorem State.halt_status : (s.halt).status = .halted := rfl
@[simp] theorem State.halt_acc : (s.halt).acc = s.acc := rfl
@[simp] theorem State.halt_place : (s.halt).place = s.place := rfl
@[simp] theorem State.halt_resetQueued : (s.halt).resetQueued = s.resetQueued := rfl
@[simp] theorem State.halt_cancelRequested : (s.halt).cancelRequested = s.cancelRequested := rfl
@[simp] theorem State.halt_turns : (s.halt).turns = s.turns := rfl
@[simp] theorem State.halt_outputs : (s.halt).outputs = s.outputs ++ [.status .halted] := rfl
@[simp] theorem State.halt_randoms : (s.halt).randoms = s.randoms := rfl
@[simp] theorem State.halt_readings : (s.halt).readings = s.readings := rfl
@[simp] theorem State.halt_draws : (s.halt).draws = s.draws := rfl

/-! ### `State.raise` -/

@[simp] theorem State.raise_mem (c : FaultCode) : (s.raise c).mem = s.mem := rfl
@[simp] theorem State.raise_v (c : FaultCode) : (s.raise c).v = s.v := rfl
@[simp] theorem State.raise_i (c : FaultCode) : (s.raise c).i = s.i := rfl
@[simp] theorem State.raise_pc (c : FaultCode) : (s.raise c).pc = s.pc := rfl
@[simp] theorem State.raise_stack (c : FaultCode) : (s.raise c).stack = s.stack := rfl
@[simp] theorem State.raise_sp (c : FaultCode) : (s.raise c).sp = s.sp := rfl
@[simp] theorem State.raise_uf (c : FaultCode) : (s.raise c).uf = s.uf := rfl
@[simp] theorem State.raise_dt (c : FaultCode) : (s.raise c).dt = s.dt := rfl
@[simp] theorem State.raise_st (c : FaultCode) : (s.raise c).st = s.st := rfl
@[simp] theorem State.raise_key (c : FaultCode) : (s.raise c).key = s.key := rfl
@[simp] theorem State.raise_fb (c : FaultCode) : (s.raise c).fb = s.fb := rfl
@[simp] theorem State.raise_status (c : FaultCode) : (s.raise c).status = .faulted c := rfl
@[simp] theorem State.raise_acc (c : FaultCode) : (s.raise c).acc = s.acc := rfl
@[simp] theorem State.raise_place (c : FaultCode) : (s.raise c).place = s.place := rfl
@[simp] theorem State.raise_resetQueued (c : FaultCode) : (s.raise c).resetQueued = s.resetQueued := rfl
@[simp] theorem State.raise_cancelRequested (c : FaultCode) : (s.raise c).cancelRequested = s.cancelRequested := rfl
@[simp] theorem State.raise_turns (c : FaultCode) : (s.raise c).turns = s.turns := rfl
@[simp] theorem State.raise_outputs (c : FaultCode) : (s.raise c).outputs = s.outputs ++ [.status (.faulted c s.instrAddr (s.wordAt s.instrAddr))] := rfl
@[simp] theorem State.raise_randoms (c : FaultCode) : (s.raise c).randoms = s.randoms := rfl
@[simp] theorem State.raise_readings (c : FaultCode) : (s.raise c).readings = s.readings := rfl
@[simp] theorem State.raise_draws (c : FaultCode) : (s.raise c).draws = s.draws := rfl

/-! ### `State.countTimers` -/

@[simp] theorem State.countTimers_mem : (s.countTimers).mem = s.mem := rfl
@[simp] theorem State.countTimers_v : (s.countTimers).v = s.v := rfl
@[simp] theorem State.countTimers_i : (s.countTimers).i = s.i := rfl
@[simp] theorem State.countTimers_pc : (s.countTimers).pc = s.pc := rfl
@[simp] theorem State.countTimers_stack : (s.countTimers).stack = s.stack := rfl
@[simp] theorem State.countTimers_sp : (s.countTimers).sp = s.sp := rfl
@[simp] theorem State.countTimers_uf : (s.countTimers).uf = s.uf := rfl
@[simp] theorem State.countTimers_dt : (s.countTimers).dt = countDown s.dt := rfl
@[simp] theorem State.countTimers_st : (s.countTimers).st = countDown s.st := rfl
@[simp] theorem State.countTimers_key : (s.countTimers).key = s.key := rfl
@[simp] theorem State.countTimers_fb : (s.countTimers).fb = s.fb := rfl
@[simp] theorem State.countTimers_status : (s.countTimers).status = s.status := rfl
@[simp] theorem State.countTimers_acc : (s.countTimers).acc = s.acc := rfl
@[simp] theorem State.countTimers_place : (s.countTimers).place = s.place := rfl
@[simp] theorem State.countTimers_resetQueued : (s.countTimers).resetQueued = s.resetQueued := rfl
@[simp] theorem State.countTimers_cancelRequested : (s.countTimers).cancelRequested = s.cancelRequested := rfl
@[simp] theorem State.countTimers_turns : (s.countTimers).turns = s.turns := rfl
@[simp] theorem State.countTimers_outputs : (s.countTimers).outputs = s.outputs := rfl
@[simp] theorem State.countTimers_randoms : (s.countTimers).randoms = s.randoms := rfl
@[simp] theorem State.countTimers_readings : (s.countTimers).readings = s.readings := rfl
@[simp] theorem State.countTimers_draws : (s.countTimers).draws = s.draws := rfl

/-! ### `State.cancelled` -/

@[simp] theorem State.cancelled_mem : (s.cancelled).mem = s.mem := rfl
@[simp] theorem State.cancelled_v : (s.cancelled).v = s.v := rfl
@[simp] theorem State.cancelled_i : (s.cancelled).i = s.i := rfl
@[simp] theorem State.cancelled_pc : (s.cancelled).pc = s.pc := rfl
@[simp] theorem State.cancelled_stack : (s.cancelled).stack = s.stack := rfl
@[simp] theorem State.cancelled_sp : (s.cancelled).sp = s.sp := rfl
@[simp] theorem State.cancelled_uf : (s.cancelled).uf = s.uf := rfl
@[simp] theorem State.cancelled_dt : (s.cancelled).dt = s.dt := rfl
@[simp] theorem State.cancelled_st : (s.cancelled).st = s.st := rfl
@[simp] theorem State.cancelled_key : (s.cancelled).key = s.key := rfl
@[simp] theorem State.cancelled_fb : (s.cancelled).fb = s.fb := rfl
@[simp] theorem State.cancelled_status : (s.cancelled).status = .idle := rfl
@[simp] theorem State.cancelled_acc : (s.cancelled).acc = s.acc := rfl
@[simp] theorem State.cancelled_place : (s.cancelled).place = s.place := rfl
@[simp] theorem State.cancelled_resetQueued : (s.cancelled).resetQueued = s.resetQueued := rfl
@[simp] theorem State.cancelled_cancelRequested : (s.cancelled).cancelRequested = false := rfl
@[simp] theorem State.cancelled_turns : (s.cancelled).turns = s.turns := rfl
@[simp] theorem State.cancelled_outputs : (s.cancelled).outputs = s.outputs := rfl
@[simp] theorem State.cancelled_randoms : (s.cancelled).randoms = s.randoms := rfl
@[simp] theorem State.cancelled_readings : (s.cancelled).readings = s.readings := rfl
@[simp] theorem State.cancelled_draws : (s.cancelled).draws = s.draws := rfl

/-! ### `State.keySet` -/

@[simp] theorem State.keySet_mem (k : Key) (d : Bool) : (s.keySet k d).mem = s.mem := rfl
@[simp] theorem State.keySet_v (k : Key) (d : Bool) : (s.keySet k d).v = s.v := rfl
@[simp] theorem State.keySet_i (k : Key) (d : Bool) : (s.keySet k d).i = s.i := rfl
@[simp] theorem State.keySet_pc (k : Key) (d : Bool) : (s.keySet k d).pc = s.pc := rfl
@[simp] theorem State.keySet_stack (k : Key) (d : Bool) : (s.keySet k d).stack = s.stack := rfl
@[simp] theorem State.keySet_sp (k : Key) (d : Bool) : (s.keySet k d).sp = s.sp := rfl
@[simp] theorem State.keySet_uf (k : Key) (d : Bool) : (s.keySet k d).uf = s.uf := rfl
@[simp] theorem State.keySet_dt (k : Key) (d : Bool) : (s.keySet k d).dt = s.dt := rfl
@[simp] theorem State.keySet_st (k : Key) (d : Bool) : (s.keySet k d).st = s.st := rfl
@[simp] theorem State.keySet_key (k : Key) (d : Bool) : (s.keySet k d).key = s.key.set k d := rfl
@[simp] theorem State.keySet_fb (k : Key) (d : Bool) : (s.keySet k d).fb = s.fb := rfl
@[simp] theorem State.keySet_status (k : Key) (d : Bool) : (s.keySet k d).status = s.status := rfl
@[simp] theorem State.keySet_acc (k : Key) (d : Bool) : (s.keySet k d).acc = s.acc := rfl
@[simp] theorem State.keySet_place (k : Key) (d : Bool) : (s.keySet k d).place = s.place := rfl
@[simp] theorem State.keySet_resetQueued (k : Key) (d : Bool) : (s.keySet k d).resetQueued = s.resetQueued := rfl
@[simp] theorem State.keySet_cancelRequested (k : Key) (d : Bool) : (s.keySet k d).cancelRequested = s.cancelRequested := rfl
@[simp] theorem State.keySet_turns (k : Key) (d : Bool) : (s.keySet k d).turns = s.turns := rfl
@[simp] theorem State.keySet_outputs (k : Key) (d : Bool) : (s.keySet k d).outputs = s.outputs := rfl
@[simp] theorem State.keySet_randoms (k : Key) (d : Bool) : (s.keySet k d).randoms = s.randoms := rfl
@[simp] theorem State.keySet_readings (k : Key) (d : Bool) : (s.keySet k d).readings = s.readings := rfl
@[simp] theorem State.keySet_draws (k : Key) (d : Bool) : (s.keySet k d).draws = s.draws := rfl

end Sys2Proof.Machine
end

