-- ==== Sys2Proof/Laws/Framebuffer.lean ====
section
/-! SUPPORT. The framebuffer primitives: each keeps the grid's size, and what each leaves of a pixel. -/

namespace Sys2Proof.Machine

@[simp] theorem blankRow_length (w : Nat) : (blankRow w).length = w := by simp [blankRow]

theorem Mode.width_pos (m : Mode) : 0 < m.width := by cases m <;> decide

theorem Mode.height_pos (m : Mode) : 0 < m.height := by cases m <;> decide

theorem Framebuffer.reallocated_wf (m : Mode) : (Framebuffer.reallocated m).wf := by
  simp [Framebuffer.wf, Framebuffer.reallocated, Mode.blank]

theorem Framebuffer.clear_wf (fb : Framebuffer) : fb.clear.wf := by
  simp [Framebuffer.wf, Framebuffer.clear, Mode.blank]

@[simp] theorem Framebuffer.clear_mode (fb : Framebuffer) : fb.clear.mode = fb.mode := rfl

@[simp] theorem Framebuffer.toggle_mode (fb : Framebuffer) (x y : Nat) : (fb.toggle x y).mode = fb.mode := rfl

@[simp] theorem Framebuffer.toggle_dirty (fb : Framebuffer) (x y : Nat) : (fb.toggle x y).dirty = true := rfl

@[simp] theorem Framebuffer.scrolled_mode (fb : Framebuffer) (n : Nat) (rows : List (List Bool)) :
    (fb.scrolled n rows).mode = fb.mode := by
  unfold Framebuffer.scrolled; split_ifs <;> rfl

theorem Framebuffer.toggle_wf (fb : Framebuffer) (h : fb.wf) (x y : Nat) : (fb.toggle x y).wf := by
  refine ⟨by simpa [Framebuffer.toggle] using h.1, fun r hr => ?_⟩
  simp only [Framebuffer.toggle] at hr ⊢
  obtain ⟨k, hk, rfl⟩ := List.mem_iff_getElem.1 hr
  simp only [List.getElem_modify]
  have := h.2 _ (List.getElem_mem (l := fb.rows) (n := k) (by simpa using hk))
  split_ifs <;> simpa using this

theorem Framebuffer.toggleAll_wf (fb : Framebuffer) (h : fb.wf) (ox oy : Nat) (cells : List (Nat × Nat)) :
    (fb.toggleAll ox oy cells).1.wf := by
  induction cells generalizing fb with
  | nil => exact h
  | cons c cells ih => exact ih _ (fb.toggle_wf h _ _)

@[simp] theorem Framebuffer.toggleAll_mode (fb : Framebuffer) (ox oy : Nat) (cells : List (Nat × Nat)) :
    (fb.toggleAll ox oy cells).1.mode = fb.mode := by
  induction cells generalizing fb with
  | nil => rfl
  | cons c cells ih => exact ih (fb.toggle _ _)

/-- `dirty` after a drawing: as before, or set by any toggle (40_display.md R171). -/
theorem Framebuffer.toggleAll_dirty (fb : Framebuffer) (ox oy : Nat) (cells : List (Nat × Nat)) :
    (fb.toggleAll ox oy cells).1.dirty = (fb.dirty || !cells.isEmpty) := by
  induction cells generalizing fb with
  | nil => simp [Framebuffer.toggleAll]
  | cons c cells ih =>
    have := ih (fb.toggle (ox + c.1) (oy + c.2))
    simpa [Framebuffer.toggleAll] using this

theorem Framebuffer.scrolled_wf (fb : Framebuffer) (h : fb.wf) (n : Nat) (rows : List (List Bool))
    (hr : rows.length = fb.mode.height ∧ ∀ r ∈ rows, r.length = fb.mode.width) : (fb.scrolled n rows).wf := by
  unfold Framebuffer.scrolled
  split_ifs
  · exact h
  · exact hr

theorem Framebuffer.scrollDown_wf (fb : Framebuffer) (h : fb.wf) (n : Nat) : (fb.scrollDown n).wf := by
  refine fb.scrolled_wf h n _ ⟨by simp [h.1], fun r hr => ?_⟩
  rcases List.mem_append.1 (List.mem_of_mem_take hr) with hr | hr
  · rw [List.eq_of_mem_replicate hr]; simp
  · exact h.2 r hr

theorem Framebuffer.scrollUp_wf (fb : Framebuffer) (h : fb.wf) (n : Nat) : (fb.scrollUp n).wf := by
  refine fb.scrolled_wf h n _ ⟨by simp [h.1], fun r hr => ?_⟩
  rcases List.mem_append.1 (List.mem_of_mem_drop hr) with hr | hr
  · exact h.2 r hr
  · rw [List.eq_of_mem_replicate hr]; simp

theorem Framebuffer.scrollRight_wf (fb : Framebuffer) (h : fb.wf) (n : Nat) : (fb.scrollRight n).wf := by
  refine fb.scrolled_wf h n _ ⟨by simp [h.1], fun r hr => ?_⟩
  obtain ⟨q, hq, rfl⟩ := List.mem_map.1 hr
  simp [h.2 q hq]

theorem Framebuffer.scrollLeft_wf (fb : Framebuffer) (h : fb.wf) (n : Nat) : (fb.scrollLeft n).wf := by
  refine fb.scrolled_wf h n _ ⟨by simp [h.1], fun r hr => ?_⟩
  obtain ⟨q, hq, rfl⟩ := List.mem_map.1 hr
  simp [h.2 q hq]

/-- A pixel of a wf grid, addressed inside the grid. -/
theorem Framebuffer.get_eq (fb : Framebuffer) (x y : Nat) (hx : x < fb.mode.width) (hy : y < fb.mode.height) :
    fb.get x y = (fb.rows.getD y []).getD x false := by
  simp [Framebuffer.get, Nat.mod_eq_of_lt hx, Nat.mod_eq_of_lt hy]

/-- A toggle turns its own pixel and leaves every other (40_display.md R153). -/
theorem Framebuffer.get_toggle (fb : Framebuffer) (h : fb.wf) (x y p q : Nat) :
    (fb.toggle x y).get p q =
      (fb.get p q ^^ decide (p % fb.mode.width = x % fb.mode.width ∧ q % fb.mode.height = y % fb.mode.height)) := by
  have hq : q % fb.mode.height < fb.rows.length := by rw [h.1]; exact Nat.mod_lt _ fb.mode.height_pos
  have hp : p % fb.mode.width < (fb.rows[q % fb.mode.height]).length := by
    rw [h.2 _ (List.getElem_mem hq)]; exact Nat.mod_lt _ fb.mode.width_pos
  simp only [Framebuffer.get, Framebuffer.toggle, List.getD_eq_getElem?_getD, List.getElem?_modify,
    List.getElem?_eq_getElem hq]
  by_cases hy : y % fb.mode.height = q % fb.mode.height
  · by_cases hx : x % fb.mode.width = p % fb.mode.width
    · simp [hy, hx, List.getElem?_eq_getElem hp]
    · simp [hy, hx, Ne.symm hx]
  · simp [hy, Ne.symm hy]

/-! ## A whole drawing -/

/-- The cell (column, row) drawn at (`ox`, `oy`) falls on the pixel (`p`, `q`) of the grid (40_display.md R169). -/
abbrev Framebuffer.Hits (fb : Framebuffer) (ox oy p q : Nat) (c : Nat × Nat) : Prop :=
  p % fb.mode.width = (ox + c.1) % fb.mode.width ∧ q % fb.mode.height = (oy + c.2) % fb.mode.height

/-- No two of the cells fall on one pixel. -/
def Framebuffer.Apart (fb : Framebuffer) (ox oy : Nat) (cells : List (Nat × Nat)) : Prop :=
  cells.Pairwise fun c d => ¬fb.Hits ox oy (ox + c.1) (oy + c.2) d

/-- A pixel no cell falls on is left alone. -/
theorem Framebuffer.get_toggleAll_miss (ox oy p q : Nat) (cells : List (Nat × Nat)) (fb : Framebuffer) (h : fb.wf)
    (hm : ∀ c ∈ cells, ¬fb.Hits ox oy p q c) : (fb.toggleAll ox oy cells).1.get p q = fb.get p q := by
  induction cells generalizing fb with
  | nil => rfl
  | cons c cells ih =>
    have hc : ¬fb.Hits ox oy p q c := hm c (by simp)
    have hr := ih _ (fb.toggle_wf h (ox + c.1) (oy + c.2)) fun d hd => hm d (by simp [hd])
    refine hr.trans ?_
    rw [fb.get_toggle h, decide_eq_false hc, Bool.xor_false]

/-- A pixel some cell falls on is turned, where no two cells fall on one pixel. -/
theorem Framebuffer.get_toggleAll_hit (ox oy p q : Nat) (cells : List (Nat × Nat)) (fb : Framebuffer) (h : fb.wf)
    (ha : fb.Apart ox oy cells) (hh : ∃ c ∈ cells, fb.Hits ox oy p q c) :
    (fb.toggleAll ox oy cells).1.get p q = !fb.get p q := by
  induction cells generalizing fb with
  | nil => obtain ⟨c, hc, -⟩ := hh; simp at hc
  | cons c cells ih =>
    obtain ⟨hc, ha⟩ := List.pairwise_cons.1 ha
    have hw := fb.toggle_wf h (ox + c.1) (oy + c.2)
    by_cases hcp : fb.Hits ox oy p q c
    · refine (Framebuffer.get_toggleAll_miss ox oy p q cells _ hw fun d hd hdp => ?_).trans ?_
      · exact hc d hd ⟨hcp.1.symm.trans hdp.1, hcp.2.symm.trans hdp.2⟩
      · rw [fb.get_toggle h, decide_eq_true hcp, Bool.xor_true]
    · obtain ⟨d, hd, hdp⟩ := hh
      have hd : d ∈ cells := (List.mem_cons.1 hd).resolve_left fun e => hcp (e ▸ hdp)
      refine (ih _ hw ha ⟨d, hd, hdp⟩).trans ?_
      rw [fb.get_toggle h, decide_eq_false hcp, Bool.xor_false]

/-- The collision: some cell falls on a pixel that was on, where no two cells fall on one pixel (40_display.md R170). -/
theorem Framebuffer.toggleAll_collision (ox oy : Nat) (cells : List (Nat × Nat)) (fb : Framebuffer) (h : fb.wf)
    (ha : fb.Apart ox oy cells) :
    (fb.toggleAll ox oy cells).2 = true ↔ ∃ c ∈ cells, fb.get (ox + c.1) (oy + c.2) = true := by
  induction cells generalizing fb with
  | nil => simp [Framebuffer.toggleAll]
  | cons c cells ih =>
    obtain ⟨hc, ha⟩ := List.pairwise_cons.1 ha
    simp only [Framebuffer.toggleAll, Bool.or_eq_true, ih _ (fb.toggle_wf h _ _) ha, List.mem_cons, exists_eq_or_imp]
    refine or_congr (by simp [fb.get_toggle h]) (exists_congr fun d => and_congr_right fun hd => ?_)
    have hn : ¬fb.Hits ox oy (ox + d.1) (oy + d.2) c := fun e => hc d hd ⟨e.1.symm, e.2.symm⟩
    rw [fb.get_toggle h, decide_eq_false hn, Bool.xor_false]

end Sys2Proof.Machine
end

