-- ==== Sys2Proof/Laws/Memory.lean ====
section
/-! SUPPORT. The memory as a list of cells: read after write, the canonical form, and the same for the accesses of State. -/

namespace Sys2Proof.Machine

theorem Memory.read_cell_append (a b : Nat) (x : Byte) (m : Memory) (hm : ∀ c ∈ m, a < c.1) :
    Memory.read (Memory.cell a x ++ m) b = if b = a then x else Memory.read m b := by
  have absent : ∀ m : Memory, (∀ c ∈ m, a < c.1) → Memory.read m a = Memory.initial a := by
    intro m
    induction m with
    | nil => intro _; rfl
    | cons c m ih =>
      intro h
      have hc := h c (by simp)
      rw [Memory.read, if_neg (by omega)]
      exact ih fun d hd => h d (by simp [hd])
  unfold Memory.cell
  by_cases hx : x = Memory.initial a
  · by_cases hb : b = a
    · subst hb; simp [hx, absent m hm]
    · simp [hx, hb]
  · by_cases hb : b = a
    · simp [hx, hb, Memory.read]
    · simp [hx, hb, Memory.read, Ne.symm hb]

/-- Read after write: the byte written at its address, every other byte as before. -/
theorem Memory.read_write (m : Memory) (hm : Memory.wf m) (a b : Nat) (x : Byte) :
    Memory.read (Memory.write m a x) b = if b = a then x else Memory.read m b := by
  induction m with
  | nil =>
    have := Memory.read_cell_append a b x [] (by simp)
    simpa [Memory.write] using this
  | cons c m ih =>
    obtain ⟨k, y⟩ := c
    obtain ⟨hs, hc⟩ := hm
    rw [List.pairwise_cons] at hs
    have hwf : Memory.wf m := ⟨hs.2, fun d hd => hc d (by simp [hd])⟩
    simp only [Memory.write]
    by_cases h1 : a < k
    · rw [if_pos h1]
      exact Memory.read_cell_append a b x ((k, y) :: m) (by
        intro d hd
        rcases List.mem_cons.1 hd with rfl | hd
        · exact h1
        · exact Nat.lt_trans h1 (hs.1 d hd))
    · rw [if_neg h1]
      by_cases h2 : a = k
      · subst h2
        rw [if_pos rfl, Memory.read_cell_append a b x m fun d hd => hs.1 d hd]
        by_cases hb : b = a
        · simp [hb]
        · simp [hb, Memory.read, Ne.symm hb]
      · rw [if_neg h2]
        simp only [Memory.read, ih hwf]
        by_cases hk : k = b
        · subst hk; simp [Ne.symm h2]
        · simp [hk]

theorem Memory.mem_write {m : Memory} {a : Nat} {x : Byte} {d : Host.Cell} (h : d ∈ Memory.write m a x) :
    d ∈ m ∨ (d.1 = a ∧ d.2 ≠ Memory.initial a) := by
  have hcell : ∀ {e : Host.Cell}, e ∈ Memory.cell a x → e.1 = a ∧ e.2 ≠ Memory.initial a := by
    intro e he
    unfold Memory.cell at he
    split_ifs at he with hx
    · simp at he
    · simp only [List.mem_singleton] at he
      subst he; exact ⟨rfl, hx⟩
  induction m with
  | nil => exact .inr (hcell h)
  | cons c m ih =>
    obtain ⟨k, y⟩ := c
    rw [Memory.write] at h
    split_ifs at h with h1 h2
    · rcases List.mem_append.1 h with h | h
      · exact .inr (hcell h)
      · exact .inl h
    · rcases List.mem_append.1 h with h | h
      · exact .inr (hcell h)
      · exact .inl (by simp [h])
    · rcases List.mem_cons.1 h with h | h
      · exact .inl (by simp [h])
      · rcases ih h with h | h
        · exact .inl (by simp [h])
        · exact .inr h

/-- A write keeps the canonical form. -/
theorem Memory.write_wf (m : Memory) (hm : Memory.wf m) (a : Nat) (ha : a < Config.memSize) (x : Byte) :
    Memory.wf (Memory.write m a x) := by
  refine ⟨?_, ?_⟩
  · obtain ⟨hs, -⟩ := hm
    have sorted_cell : ∀ m : Memory, (∀ c ∈ m, a < c.1) → m.Pairwise (fun c d => c.1 < d.1) →
        (Memory.cell a x ++ m).Pairwise (fun c d => c.1 < d.1) := by
      intro m h hp
      unfold Memory.cell
      split_ifs
      · simpa using hp
      · simpa [List.pairwise_cons] using ⟨fun k b hd => h (k, b) hd, hp⟩
    induction m with
    | nil => simpa [Memory.write] using sorted_cell [] (by simp) (by simp)
    | cons c m ih =>
      obtain ⟨k, y⟩ := c
      rw [Memory.write]
      have hs' := List.pairwise_cons.1 hs
      split_ifs with h1 h2
      · exact sorted_cell _ (by
          intro d hd
          rcases List.mem_cons.1 hd with rfl | hd
          · exact h1
          · exact Nat.lt_trans h1 (hs'.1 d hd)) hs
      · subst h2
        exact sorted_cell m (fun d hd => hs'.1 d hd) hs'.2
      · refine List.pairwise_cons.2 ⟨fun d hd => ?_, ih hs'.2⟩
        rcases Memory.mem_write hd with hd | hd
        · exact hs'.1 d hd
        · simp only [hd.1]; omega
  · intro d hd
    rcases Memory.mem_write hd with hd | hd
    · exact hm.2 d hd
    · rw [hd.1]; exact ⟨ha, hd.2⟩

/-! ## The accesses of State -/

theorem State.memRead_mod (s : State) (a : Nat) : s.memRead (a % Config.memSize) = s.memRead a := by
  simp [State.memRead]

/-- A byte written is read back at its address modulo 4096, and every other byte reads as before. -/
theorem State.memRead_memWrite (s : State) (h : Memory.wf s.mem) (a b : Nat) (x : Byte) :
    (s.memWrite a x).memRead b =
      if b % Config.memSize = a % Config.memSize then x else s.memRead b := by
  simp only [State.memRead, State.memWrite_mem, Memory.read_write s.mem h]

theorem State.memWrite_wf (s : State) (h : Memory.wf s.mem) (a : Nat) (x : Byte) :
    Memory.wf (s.memWrite a x).mem :=
  Memory.write_wf s.mem h _ (Nat.mod_lt _ (by decide)) x

/-- A list of bytes written keeps the canonical form. -/
theorem State.memWriteList_wf (s : State) (h : Memory.wf s.mem) (a : Nat) (bs : List Byte) :
    Memory.wf (s.memWriteList a bs).mem := by
  induction bs generalizing s a with
  | nil => exact h
  | cons b bs ih => exact ih _ (s.memWrite_wf h a b) _

/-- A list of bytes written changes memory only. -/
theorem State.memWriteList_frame (s : State) (a : Nat) (bs : List Byte) :
    s.memWriteList a bs = { s with mem := (s.memWriteList a bs).mem } := by
  induction bs generalizing s a with
  | nil => rfl
  | cons b bs ih =>
    rw [State.memWriteList, ih]
    rfl

/-- What memory becomes depends on memory alone. -/
theorem State.memWriteList_mem_congr (s t : State) (h : s.mem = t.mem) (a : Nat) (bs : List Byte) :
    (s.memWriteList a bs).mem = (t.memWriteList a bs).mem := by
  induction bs generalizing s t a with
  | nil => exact h
  | cons b bs ih => exact ih (s.memWrite a b) (t.memWrite a b) (by simp only [State.memWrite_mem, h]) (a + 1)

/-! Each other field after a list of bytes is written. -/

section
variable (s : State) (a : Nat) (bs : List Byte)

@[simp] theorem State.memWriteList_v : (s.memWriteList a bs).v = s.v := by rw [State.memWriteList_frame]
@[simp] theorem State.memWriteList_i : (s.memWriteList a bs).i = s.i := by rw [State.memWriteList_frame]
@[simp] theorem State.memWriteList_pc : (s.memWriteList a bs).pc = s.pc := by rw [State.memWriteList_frame]
@[simp] theorem State.memWriteList_stack : (s.memWriteList a bs).stack = s.stack := by rw [State.memWriteList_frame]
@[simp] theorem State.memWriteList_sp : (s.memWriteList a bs).sp = s.sp := by rw [State.memWriteList_frame]
@[simp] theorem State.memWriteList_uf : (s.memWriteList a bs).uf = s.uf := by rw [State.memWriteList_frame]
@[simp] theorem State.memWriteList_dt : (s.memWriteList a bs).dt = s.dt := by rw [State.memWriteList_frame]
@[simp] theorem State.memWriteList_st : (s.memWriteList a bs).st = s.st := by rw [State.memWriteList_frame]
@[simp] theorem State.memWriteList_key : (s.memWriteList a bs).key = s.key := by rw [State.memWriteList_frame]
@[simp] theorem State.memWriteList_fb : (s.memWriteList a bs).fb = s.fb := by rw [State.memWriteList_frame]
@[simp] theorem State.memWriteList_status : (s.memWriteList a bs).status = s.status := by rw [State.memWriteList_frame]
@[simp] theorem State.memWriteList_acc : (s.memWriteList a bs).acc = s.acc := by rw [State.memWriteList_frame]
@[simp] theorem State.memWriteList_place : (s.memWriteList a bs).place = s.place := by rw [State.memWriteList_frame]
@[simp] theorem State.memWriteList_resetQueued : (s.memWriteList a bs).resetQueued = s.resetQueued := by rw [State.memWriteList_frame]
@[simp] theorem State.memWriteList_cancelRequested : (s.memWriteList a bs).cancelRequested = s.cancelRequested := by rw [State.memWriteList_frame]
@[simp] theorem State.memWriteList_turns : (s.memWriteList a bs).turns = s.turns := by rw [State.memWriteList_frame]
@[simp] theorem State.memWriteList_outputs : (s.memWriteList a bs).outputs = s.outputs := by rw [State.memWriteList_frame]
@[simp] theorem State.memWriteList_randoms : (s.memWriteList a bs).randoms = s.randoms := by rw [State.memWriteList_frame]
@[simp] theorem State.memWriteList_readings : (s.memWriteList a bs).readings = s.readings := by rw [State.memWriteList_frame]
@[simp] theorem State.memWriteList_draws : (s.memWriteList a bs).draws = s.draws := by rw [State.memWriteList_frame]

end

/-- What a list of bytes written leaves at every address: the byte whose turn it was there, each other byte as before. -/
theorem State.memRead_memWriteList (s : State) (h : Memory.wf s.mem) (a : Nat) (bs : List Byte)
    (hl : bs.length ≤ Config.memSize) (b : Nat) :
    (s.memWriteList a bs).memRead b =
      bs.getD ((b % Config.memSize + Config.memSize - a % Config.memSize) % Config.memSize) (s.memRead b) := by
  induction bs generalizing s a with
  | nil => rfl
  | cons c bs ih =>
    rw [State.memWriteList, ih _ (s.memWrite_wf h a c) _ (by simp at hl; omega),
      State.memRead_memWrite s h]
    simp only [List.length_cons, Config.memSize] at hl
    by_cases hb : b % Config.memSize = a % Config.memSize
    · rw [if_pos hb]
      simp only [Config.memSize] at hb ⊢
      rw [show (b % 4096 + 4096 - a % 4096) % 4096 = 0 by omega, List.getD_cons_zero]
      rw [List.getD_eq_default]
      omega
    · rw [if_neg hb]
      simp only [Config.memSize] at hb ⊢
      obtain ⟨k, hk⟩ : ∃ k, (b % 4096 + 4096 - a % 4096) % 4096 = k + 1 :=
        ⟨(b % 4096 + 4096 - a % 4096) % 4096 - 1, by omega⟩
      rw [hk, List.getD_cons_succ, show (b % 4096 + 4096 - (a + 1) % 4096) % 4096 = k by omega]

end Sys2Proof.Machine
end

