-- ==== Sys2Proof/Laws/Ops.lean ====
section
/-! SUPPORT. Each shared operation's one lemma: everything it can do, for the provers to cite instead of unfolding it. -/

namespace Sys2Proof.Machine

/-! ## Registers -/

@[simp] theorem State.get_set_v (v : Vector Byte 16) (r q : Reg) (b : Byte) :
    (v.set r.val b).get q = if q = r then b else v.get q := by
  simp only [Vector.get_eq_getElem, Vector.getElem_set, Fin.val_eq_val, eq_comm (a := r)]

theorem State.reg_setReg (s : State) (r q : Reg) (b : Byte) :
    (s.setReg r b).reg q = if q = r then b else s.reg q := by
  simp [State.reg]

theorem mergeRange_get (x : Reg) (new : Fin 16 → Byte) (old : Vector Byte 16) (k : Reg) :
    (mergeRange x new old).get k = if k ≤ x then new k else old.get k := by
  simp [mergeRange, Vector.get_eq_getElem]

theorem State.rangeBytes_length (s : State) (x : Reg) : (s.rangeBytes x).length = x.val + 1 := by
  simp only [State.rangeBytes, List.length_take, Vector.length_toList]; omega

theorem State.rangeBytes_getD (s : State) (x k : Reg) (h : k ≤ x) (d : Byte) :
    (s.rangeBytes x).getD k.val d = s.v.get k := by
  have hk : k.val < x.val + 1 := Nat.lt_succ_of_le h
  simp only [State.rangeBytes, List.getD_eq_getElem?_getD, List.getElem?_take, if_pos hk]
  simp [Vector.get_eq_getElem]

/-! ## Control -/

/-- A skip changes PC only. -/
theorem State.skipIf_frame (s : State) (c : Bool) : ∃ pc, s.skipIf c = { s with pc := pc } := by
  cases c
  · exact ⟨s.pc, rfl⟩
  · exact ⟨s.pc + 2, rfl⟩

theorem State.skipIf_eq (s : State) (c : Bool) : s.skipIf c = if c then { s with pc := s.pc + 2 } else s := rfl

/-- A call with room on the stack. -/
theorem State.callTo_push (s : State) (a : Word) (h : s.sp.val < 16) :
    s.callTo a = { s with stack := s.stack.set s.sp.val s.pc, sp := ⟨s.sp.val + 1, by omega⟩, pc := a &&& 0xFFF } := by
  simp [State.callTo, State.push?, h, State.jump]

/-- A call with the stack full. -/
theorem State.callTo_full (s : State) (a : Word) (h : s.sp.val = 16) : s.callTo a = s.raise .stackOverflow := by
  simp [State.callTo, State.push?, h]

/-- A return with an entry on the stack. -/
theorem State.returnFrom_pop (s : State) (k : Fin 16) (h : s.sp.val = k.val + 1) :
    s.returnFrom = { s with sp := ⟨k.val, by omega⟩, pc := s.stack.get k &&& 0xFFF } := by
  have h0 : ¬ s.sp.val = 0 := by omega
  have hk : s.sp.val - 1 = k.val := by omega
  simp only [State.returnFrom, State.pop?, h0, dite_false, State.jump, hk]

/-- A return with the stack empty. -/
theorem State.returnFrom_empty (s : State) (h : s.sp.val = 0) : s.returnFrom = s.raise .stackUnderflow := by
  simp [State.returnFrom, State.pop?, h]

/-- A call changes the stack and PC, or STATUS and the outputs. -/
theorem State.callTo_frame (s : State) (a : Word) : ∃ stack sp pc status outputs, s.callTo a =
    { s with stack := stack, sp := sp, pc := pc, status := status, outputs := outputs } := by
  by_cases h : s.sp.val < 16
  · exact ⟨_, _, _, _, _, (s.callTo_push a h).trans rfl⟩
  · exact ⟨_, _, _, _, _, (s.callTo_full a (by omega)).trans rfl⟩

/-- A return changes SP and PC, or STATUS and the outputs. -/
theorem State.returnFrom_frame (s : State) : ∃ sp pc status outputs, s.returnFrom =
    { s with sp := sp, pc := pc, status := status, outputs := outputs } := by
  by_cases h : s.sp.val = 0
  · exact ⟨_, _, _, _, (s.returnFrom_empty h).trans rfl⟩
  · exact ⟨_, _, _, _, (s.returnFrom_pop ⟨s.sp.val - 1, by omega⟩ (by simp only; omega)).trans rfl⟩

/-! ## Keys -/

theorem keyIndex_of_lt (b : Byte) (h : b.toNat < 16) : keyIndex b = some ⟨b.toNat, h⟩ := by
  simp [keyIndex, h]

theorem keyIndex_of_ge (b : Byte) (h : 16 ≤ b.toNat) : keyIndex b = none := by
  simp [keyIndex, Nat.not_lt.2 h]

/-- A key skip on a key there is. -/
theorem State.skipOnKey_key (s : State) (x : Reg) (k : Key) (down : Bool) (h : (s.reg x).toNat = k.val) :
    s.skipOnKey x down = s.skipIf (s.key.get k == down) := by
  have hk : (⟨(s.reg x).toNat, by omega⟩ : Key) = k := Fin.ext h
  simp only [State.skipOnKey, keyIndex_of_lt _ (show (s.reg x).toNat < 16 by omega), hk]

/-- A key skip on an index above 0xF. -/
theorem State.skipOnKey_bad (s : State) (x : Reg) (down : Bool) (h : 0xF < (s.reg x).toNat) :
    s.skipOnKey x down = s.raise .badKeyIndex := by
  simp only [State.skipOnKey, keyIndex_of_ge _ h]

/-- A key skip changes PC, or STATUS and the outputs. -/
theorem State.skipOnKey_frame (s : State) (x : Reg) (down : Bool) : ∃ pc status outputs, s.skipOnKey x down =
    { s with pc := pc, status := status, outputs := outputs } := by
  unfold State.skipOnKey
  split
  · obtain ⟨pc, h⟩ := s.skipIf_frame (s.key.get ‹Key› == down)
    exact ⟨pc, s.status, s.outputs, h⟩
  · exact ⟨_, _, _, rfl⟩

theorem firstKeyDown_eq_some {key : Vector Bool 16} {k : Key} (hk : key.get k = true)
    (hl : ∀ j : Key, j < k → key.get j = false) : firstKeyDown key = some k := by
  simp only [firstKeyDown, List.find?_eq_some_iff_getElem]
  exact ⟨hk, k.val, by simp, by simp, fun j hj => by simpa using hl ⟨j, by omega⟩ (by exact hj)⟩

theorem firstKeyDown_eq_none {key : Vector Bool 16} (h : ∀ j : Key, key.get j = false) : firstKeyDown key = none := by
  simp [firstKeyDown, h]

/-! ## Display -/

theorem State.setResolution_same (s : State) (m : Mode) (h : s.fb.mode = m) : s.setResolution m = s := by
  simp [State.setResolution, h]

theorem State.setResolution_change (s : State) (m : Mode) (h : s.fb.mode ≠ m) :
    s.setResolution m =
      { s with fb := Framebuffer.reallocated m, outputs := s.outputs ++ [.resolutionChanged m] } := by
  simp [State.setResolution, h, State.emit]

/-- A resolution switch changes the framebuffer and the outputs. -/
theorem State.setResolution_frame (s : State) (m : Mode) : ∃ fb outputs, s.setResolution m =
    { s with fb := fb, outputs := outputs } := by
  by_cases h : s.fb.mode = m
  · exact ⟨s.fb, s.outputs, s.setResolution_same m h⟩
  · exact ⟨_, _, s.setResolution_change m h⟩

/-- The cells DXYN draws are the set cells of its sprite. -/
theorem State.mem_spriteCells (s : State) (wd ht bpr c r : Nat) :
    (c, r) ∈ s.spriteCells wd ht bpr ↔ c < wd ∧ r < ht ∧ s.spriteBit bpr c r = true := by
  simp [State.spriteCells, and_left_comm, and_comm]

/-- The cells drawn are all different. -/
theorem State.drawnCells_nodup (s : State) (n : Nat) : (s.drawnCells n).Nodup := by
  simp only [State.drawnCells, State.spriteCells, List.nodup_flatMap]
  refine ⟨fun r _ => ?_, ?_⟩
  · exact (List.nodup_range.filter _).map fun a b h => (Prod.mk.inj h).1
  · refine List.nodup_range.imp fun {a b} hab => ?_
    simp only [Function.onFun, List.disjoint_left, List.mem_map]
    rintro p ⟨c, -, rfl⟩ ⟨d, -, h⟩
    exact hab (Prod.mk.inj h).2.symm

/-! ## The loop -/

theorem State.flush_eq (s : State) :
    s.flush = { s with
      fb := { s.fb with dirty := false }
      outputs := s.outputs ++
        (if s.fb.dirty then [.redraw s.fb.pixelBytes s.fb.mode.width s.fb.mode.height] else []) } := by
  unfold State.flush
  cases h : s.fb.dirty
  · have : s.fb = { s.fb with dirty := false } := by rw [← h]
    simp [← this]
  · simp [State.emit]

/-- One I/O tick, field by field. -/
theorem State.ioTick_eq (s : State) :
    s.ioTick = { s with
      dt := countDown s.dt, st := countDown s.st
      fb := { s.fb with dirty := false }
      outputs := s.outputs ++ (if s.st = 1 then [.toneElapsed] else []) ++
        (if s.fb.dirty then [.redraw s.fb.pixelBytes s.fb.mode.width s.fb.mode.height] else []) } := by
  by_cases h : s.st = 1
  · simp only [State.ioTick, if_pos h]
    rw [State.flush_eq]; rfl
  · simp only [State.ioTick, if_neg h, List.append_nil]
    rw [State.flush_eq]; rfl

theorem countDown_toNat (t : Byte) : (countDown t).toNat = t.toNat - 1 := by
  unfold countDown
  split_ifs with h
  · simp [h]
  · have h1 : t.toNat ≠ 0 := fun h' => h (BitVec.eq_of_toNat_eq (by simpa using h'))
    have h2 : (1#8 : Byte) ≤ t := by rw [BitVec.le_def]; show 1 ≤ t.toNat; omega
    exact (BitVec.toNat_sub_of_le h2).trans rfl

end Sys2Proof.Machine
end

