-- ==== Sys2Proof/Laws/PerInstr.lean ====
section
/-! SUPPORT. Statements about every instruction as syntax, one lemma a constructor. -/

namespace Sys2Proof.Laws

/-! What each mask of the opcode map keeps of the encoder's words. -/

section
variable (g n : BitVec 4) (x y : Reg) (nn : Byte) (nnn : Addr)

theorem nibble_and_ones (b : BitVec 4) : b &&& 0xF#4 = b := BitVec.and_allOnes

theorem packXNN_maskG : packXNN g x nn &&& 0xF000#16 = packXNN g 0 0 := by
  refine (packXNN_and g x nn 0xF#4 0x0#4 0x00#8).trans ?_
  rw [nibble_and_ones, BitVec.and_zero, BitVec.and_zero]; rfl

theorem packXNN_maskGNN : packXNN g x nn &&& 0xF0FF#16 = packXNN g 0 nn := by
  refine (packXNN_and g x nn 0xF#4 0x0#4 0xFF#8).trans ?_
  rw [nibble_and_ones, BitVec.and_zero, show nn &&& 0xFF#8 = nn from BitVec.and_allOnes]; rfl

theorem packXYN_maskG : packXYN g x y n &&& 0xF000#16 = packXYN g 0 0 0 := by
  refine (packXYN_and g n x y 0xF#4 0x0#4 0x0#4 0x0#4).trans ?_
  rw [nibble_and_ones, BitVec.and_zero, BitVec.and_zero, BitVec.and_zero]; rfl

theorem packXYN_maskGN : packXYN g x y n &&& 0xF00F#16 = packXYN g 0 0 n := by
  refine (packXYN_and g n x y 0xF#4 0x0#4 0x0#4 0xF#4).trans ?_
  rw [nibble_and_ones, nibble_and_ones, BitVec.and_zero, BitVec.and_zero]; rfl

theorem packXYN_maskGY : packXYN g x y n &&& 0xF0F0#16 = packXYN g 0 y 0 := by
  refine (packXYN_and g n x y 0xF#4 0x0#4 0xF#4 0x0#4).trans ?_
  rw [nibble_and_ones, nibble_and_ones, BitVec.and_zero, BitVec.and_zero]; rfl

theorem packNNN_maskG : packNNN g nnn &&& 0xF000#16 = packNNN g 0 := by
  refine (packNNN_and g nnn 0xF#4 0x000#12).trans ?_
  rw [nibble_and_ones, BitVec.and_zero]; rfl

end

namespace EncodingSelectsRow

/-- The instruction's word lies in its own row of the opcode map (30_encoding.md R129). -/
def Statement (i : Instr) : Prop := encode i &&& i.row.1 = i.row.2

theorem cls : Statement .cls := by unfold Statement; decide
theorem ret : Statement .ret := by unfold Statement; decide
theorem scr : Statement .scr := by unfold Statement; decide
theorem scl : Statement .scl := by unfold Statement; decide
theorem exit : Statement .exit := by unfold Statement; decide
theorem low : Statement .low := by unfold Statement; decide
theorem high : Statement .high := by unfold Statement; decide
theorem scd (n : Nat) : Statement (.scd n) := (packXYN_maskGY _ _ _ _).trans rfl
theorem jp (nnn : Addr) : Statement (.jp nnn) := (packNNN_maskG _ _).trans rfl
theorem call (nnn : Addr) : Statement (.call nnn) := (packNNN_maskG _ _).trans rfl
theorem seImm (x : Reg) (nn : Byte) : Statement (.seImm x nn) := (packXNN_maskG _ _ _).trans rfl
theorem sneImm (x : Reg) (nn : Byte) : Statement (.sneImm x nn) := (packXNN_maskG _ _ _).trans rfl
theorem seReg (x : Reg) (y : Reg) : Statement (.seReg x y) := (packXYN_maskG _ _ _ _).trans rfl
theorem ldImm (x : Reg) (nn : Byte) : Statement (.ldImm x nn) := (packXNN_maskG _ _ _).trans rfl
theorem addImm (x : Reg) (nn : Byte) : Statement (.addImm x nn) := (packXNN_maskG _ _ _).trans rfl
theorem ldReg (x : Reg) (y : Reg) : Statement (.ldReg x y) := (packXYN_maskGN _ _ _ _).trans rfl
theorem orReg (x : Reg) (y : Reg) : Statement (.orReg x y) := (packXYN_maskGN _ _ _ _).trans rfl
theorem andReg (x : Reg) (y : Reg) : Statement (.andReg x y) := (packXYN_maskGN _ _ _ _).trans rfl
theorem xorReg (x : Reg) (y : Reg) : Statement (.xorReg x y) := (packXYN_maskGN _ _ _ _).trans rfl
theorem addReg (x : Reg) (y : Reg) : Statement (.addReg x y) := (packXYN_maskGN _ _ _ _).trans rfl
theorem subReg (x : Reg) (y : Reg) : Statement (.subReg x y) := (packXYN_maskGN _ _ _ _).trans rfl
theorem shr (x : Reg) (y : Reg) : Statement (.shr x y) := (packXYN_maskGN _ _ _ _).trans rfl
theorem subn (x : Reg) (y : Reg) : Statement (.subn x y) := (packXYN_maskGN _ _ _ _).trans rfl
theorem shl (x : Reg) (y : Reg) : Statement (.shl x y) := (packXYN_maskGN _ _ _ _).trans rfl
theorem sneReg (x : Reg) (y : Reg) : Statement (.sneReg x y) := (packXYN_maskG _ _ _ _).trans rfl
theorem ldI (nnn : Addr) : Statement (.ldI nnn) := (packNNN_maskG _ _).trans rfl
theorem jpV0 (nnn : Addr) : Statement (.jpV0 nnn) := (packNNN_maskG _ _).trans rfl
theorem rnd (x : Reg) (nn : Byte) : Statement (.rnd x nn) := (packXNN_maskG _ _ _).trans rfl
theorem drw (x : Reg) (y : Reg) (n : Nat) : Statement (.drw x y n) := (packXYN_maskG _ _ _ _).trans rfl
theorem skp (x : Reg) : Statement (.skp x) := (packXNN_maskGNN _ _ _).trans rfl
theorem sknp (x : Reg) : Statement (.sknp x) := (packXNN_maskGNN _ _ _).trans rfl
theorem ldVxDT (x : Reg) : Statement (.ldVxDT x) := (packXNN_maskGNN _ _ _).trans rfl
theorem ldVxK (x : Reg) : Statement (.ldVxK x) := (packXNN_maskGNN _ _ _).trans rfl
theorem ldDT (x : Reg) : Statement (.ldDT x) := (packXNN_maskGNN _ _ _).trans rfl
theorem ldST (x : Reg) : Statement (.ldST x) := (packXNN_maskGNN _ _ _).trans rfl
theorem addI (x : Reg) : Statement (.addI x) := (packXNN_maskGNN _ _ _).trans rfl
theorem ldF (x : Reg) : Statement (.ldF x) := (packXNN_maskGNN _ _ _).trans rfl
theorem ldHF (x : Reg) : Statement (.ldHF x) := (packXNN_maskGNN _ _ _).trans rfl
theorem ldB (x : Reg) : Statement (.ldB x) := (packXNN_maskGNN _ _ _).trans rfl
theorem storeRegs (x : Reg) : Statement (.storeRegs x) := (packXNN_maskGNN _ _ _).trans rfl
theorem loadRegs (x : Reg) : Statement (.loadRegs x) := (packXNN_maskGNN _ _ _).trans rfl
theorem saveFlags (x : Reg) : Statement (.saveFlags x) := (packXNN_maskGNN _ _ _).trans rfl
theorem restoreFlags (x : Reg) : Statement (.restoreFlags x) := (packXNN_maskGNN _ _ _).trans rfl

end EncodingSelectsRow

end Sys2Proof.Laws
end

