-- ==== Sys2Proof/Laws/Safety.lean ====
section
/-! SUPPORT. The terms of Safety.lean: a new grid is off, and the reset is the procedure that `State.ResetTo` states. -/

namespace Sys2Proof.Machine

/-- A grid just made has its mode's size and every pixel off. -/
theorem Framebuffer.blank_AllOff (m : Mode) (d : Bool) : Framebuffer.AllOff ⟨m, m.blank, d⟩ := by
  refine ⟨by simp [Framebuffer.wf, Mode.blank], fun x y => ?_⟩
  simp [Framebuffer.get, Mode.blank, blankRow, List.getD_eq_getElem?_getD, Nat.mod_lt,
    Mode.width_pos, Mode.height_pos]

/-- `State.reinitialise` is the reset procedure (70_reset_and_hazards.md R462). -/
theorem State.reinitialise_ResetTo (s : State) : s.ResetTo s.reinitialise := by
  refine ⟨_, rfl, Framebuffer.blank_AllOff _ _, rfl, ?_⟩
  simp only [State.reinitialise, State.resetNotice]
  cases s.status <;> split <;> simp_all [Status.afterReset, State.emit] <;> rfl

end Sys2Proof.Machine
end

