-- ==== Sys2Proof/Laws/Step.lean ====
section
/-! SUPPORT. What a step can do, case by case, and that every instruction completes. -/

namespace Sys2Proof.Machine

/-- Every instruction answers a next state, in every state. -/
theorem exec_completes (i : Instr) (s : State) : ∃ t, exec i s = .next t := by
  cases i
  case ldVxK x => simp only [exec, execLdVxK]; split <;> exact ⟨_, rfl⟩
  all_goals exact ⟨_, rfl⟩

/-! One lemma for each kind of step. -/

theorem step_of_no_turns (s : State) (h : s.turns = []) : step s = coreTransition s := by
  simp only [step, takeTurn, h]

theorem step_of_host_turn (s : State) (e : HostEvent) (rest : List Turn) (h : s.turns = .host e :: rest) :
    step s = deliver e { s with turns := rest } := by
  simp only [step, takeTurn, h]

theorem step_of_core_turn (s : State) (rest : List Turn) (h : s.turns = .core :: rest) :
    step s = coreTransition { s with turns := rest } := by
  simp only [step, takeTurn, h]

theorem coreTransition_stopped (s : State) (h : s.status ≠ .running) : coreTransition s = .next s := by
  unfold coreTransition
  cases hs : s.status <;> simp_all

theorem coreTransition_cpuStep (s : State) (h : s.status = .running) (hp : s.place = .step) :
    coreTransition s = cpuStep s := by
  simp [coreTransition, h, hp]

theorem coreTransition_clock (s : State) (h : s.status = .running) (hp : s.place = .clock) :
    coreTransition s = .next s.readClock := by
  simp [coreTransition, h, hp]

theorem coreTransition_tick (s : State) (h : s.status = .running) (hp : s.place = .top)
    (ha : Config.ioPeriod ≤ s.acc) : coreTransition s = .next s.catchUp := by
  simp [coreTransition, h, hp, ha]

theorem coreTransition_begin (s : State) (h : s.status = .running) (hp : s.place = .top)
    (ha : s.acc < Config.ioPeriod) : coreTransition s = .next s.beginIteration := by
  simp [coreTransition, h, hp, not_le.2 ha]

/-! What the start of an iteration can do. -/

theorem State.beginIteration_cancel (s : State) (h : s.cancelRequested = true) :
    s.beginIteration = { s with status := .idle, cancelRequested := false } := by
  simp [State.beginIteration, h, State.cancelled]

theorem State.beginIteration_reset (s : State) (h : s.cancelRequested = false) (hq : s.resetQueued = true) :
    s.beginIteration = { s.reinitialise with place := .step } := by
  simp [State.beginIteration, h, State.applyQueuedReset, hq]

theorem State.beginIteration_plain (s : State) (h : s.cancelRequested = false) (hq : s.resetQueued = false) :
    s.beginIteration = { s with place := .step } := by
  simp [State.beginIteration, h, State.applyQueuedReset, hq]

theorem State.afterCpuStep_running (s : State) (h : s.status = .running) :
    s.afterCpuStep = { s with place := .clock } := if_pos h

theorem State.afterCpuStep_stopped (s : State) (h : s.status ≠ .running) :
    s.afterCpuStep = { s with place := .top, cancelRequested := false } := if_neg h

theorem dispatchWord_completes (a w : Word) (s : State) : ∃ t, dispatchWord a w s = .next t := by
  unfold dispatchWord
  split
  · exact exec_completes _ _
  · exact ⟨_, rfl⟩

theorem cpuStep_completes (s : State) : ∃ t, cpuStep s = .next t := by
  obtain ⟨t, h⟩ := dispatchWord_completes s.pc (s.wordAt s.pc) s.advance
  exact ⟨t.afterCpuStep, by rw [cpuStep, h]; rfl⟩

/-- A CPU step on a word that decodes runs its instruction. -/
theorem cpuStep_instr (s t : State) (i : Instr) (hd : decodeWord (s.wordAt s.pc) = .ok i)
    (he : exec i s.advance = .next t) : cpuStep s = .next t.afterCpuStep := by
  rw [cpuStep, dispatchWord, hd]
  exact congrArg (onNext State.afterCpuStep) he

/-- A CPU step on a miss reports it. -/
theorem cpuStep_miss (s : State) (m : Miss) (hd : decodeWord (s.wordAt s.pc) = .error m) :
    cpuStep s = .next (s.advance.missed s.pc (s.wordAt s.pc)).afterCpuStep := by
  rw [cpuStep, dispatchWord, hd]
  rfl

theorem coreTransition_completes (s : State) : ∃ t, coreTransition s = .next t := by
  by_cases h : s.status = .running
  · cases hp : s.place
    · rcases le_or_gt Config.ioPeriod s.acc with ha | ha
      · exact ⟨_, coreTransition_tick s h hp ha⟩
      · exact ⟨_, coreTransition_begin s h hp ha⟩
    · rw [coreTransition_cpuStep s h hp]
      exact cpuStep_completes s
    · exact ⟨_, coreTransition_clock s h hp⟩
  · exact ⟨_, coreTransition_stopped s h⟩

/-- A run that begins with a step that goes on. -/
theorem run_succ (k : Nat) (s t : State) (h : step s = .next t) : core.run (k + 1) s = core.run k t := by
  have hc : core.step s = .next t := h
  simp only [Host.Core.run, hc]

end Sys2Proof.Machine
end

