-- ==== Sys2Proof/Tests/Slice0.lean ====
section
/-! SUPPORT. Tests of the model, and a witness for each statement with hypotheses. Every expected result is the spec's:
a vector of spec/95_test_vectors.md, named in the comment, or a rule's own words. -/

namespace Sys2Proof.Tests

-- One kernel evaluation at a time: all at once they exceed the memory limit of a check.
set_option Elab.async false

open Sys2Proof Sys2Proof.Machine

/-! ## Ill-formed instructions -/

theorem test_scd_count_too_large : (Instr.scd 16).wf = false := by decide

theorem test_drw_count_too_large : (Instr.drw 0 0 16).wf = false := by decide

theorem test_largest_counts_fit : (Instr.scd 15).wf = true ∧ (Instr.drw 0 0 15).wf = true := by decide

/-! ## Decoding: one word of every row, its bits written from the pattern of 30_encoding.md R129 -/

theorem test_decode_group0 :
    decodeWord 0b0000000011100000 = .ok .cls ∧ decodeWord 0b0000000011101110 = .ok .ret ∧
    decodeWord 0b0000000011111011 = .ok .scr ∧ decodeWord 0b0000000011111100 = .ok .scl ∧
    decodeWord 0b0000000011111101 = .ok .exit ∧ decodeWord 0b0000000011111110 = .ok .low ∧
    decodeWord 0b0000000011111111 = .ok .high ∧ decodeWord 0b0000000011000101 = .ok (.scd 5) := by decide

theorem test_decode_jumps_and_immediates :
    decodeWord 0b0001101010111100 = .ok (.jp 0xABC) ∧ decodeWord 0b0010001100000001 = .ok (.call 0x301) ∧
    decodeWord 0b0011001101000010 = .ok (.seImm 3 0x42) ∧ decodeWord 0b0100001101000011 = .ok (.sneImm 3 0x43) ∧
    decodeWord 0b0101000100100000 = .ok (.seReg 1 2) ∧ decodeWord 0b0110101001000010 = .ok (.ldImm 0xA 0x42) ∧
    decodeWord 0b0111000000000001 = .ok (.addImm 0 1) ∧ decodeWord 0b1001000100100000 = .ok (.sneReg 1 2) := by
  decide

theorem test_decode_group8 :
    decodeWord 0b1000000100100000 = .ok (.ldReg 1 2) ∧ decodeWord 0b1000000100100001 = .ok (.orReg 1 2) ∧
    decodeWord 0b1000000100100010 = .ok (.andReg 1 2) ∧ decodeWord 0b1000000100100011 = .ok (.xorReg 1 2) ∧
    decodeWord 0b1000000100100100 = .ok (.addReg 1 2) ∧ decodeWord 0b1000000100100101 = .ok (.subReg 1 2) ∧
    decodeWord 0b1000000100100110 = .ok (.shr 1 2) ∧ decodeWord 0b1000000100100111 = .ok (.subn 1 2) ∧
    decodeWord 0b1000000100101110 = .ok (.shl 1 2) := by decide

theorem test_decode_groups_A_to_E :
    decodeWord 0b1010000100100011 = .ok (.ldI 0x123) ∧ decodeWord 0b1011111111111000 = .ok (.jpV0 0xFF8) ∧
    decodeWord 0b1100001100001111 = .ok (.rnd 3 0x0F) ∧ decodeWord 0b1101000100101111 = .ok (.drw 1 2 15) ∧
    decodeWord 0b1110010110011110 = .ok (.skp 5) ∧ decodeWord 0b1110010110100001 = .ok (.sknp 5) := by decide

theorem test_decode_groupF :
    decodeWord 0b1111001100000111 = .ok (.ldVxDT 3) ∧ decodeWord 0b1111010100001010 = .ok (.ldVxK 5) ∧
    decodeWord 0b1111001100010101 = .ok (.ldDT 3) ∧ decodeWord 0b1111001100011000 = .ok (.ldST 3) ∧
    decodeWord 0b1111001000011110 = .ok (.addI 2) ∧ decodeWord 0b1111010000101001 = .ok (.ldF 4) ∧
    decodeWord 0b1111000100110000 = .ok (.ldHF 1) ∧ decodeWord 0b1111000000110011 = .ok (.ldB 0) ∧
    decodeWord 0b1111001101010101 = .ok (.storeRegs 3) ∧ decodeWord 0b1111001001100101 = .ok (.loadRegs 2) ∧
    decodeWord 0b1111111101110101 = .ok (.saveFlags 15) ∧ decodeWord 0b1111001010000101 = .ok (.restoreFlags 2) := by
  decide

/-- Vectors E-5, E-11, E-12: bits that are not examined. -/
theorem test_decode_ignores_unexamined_bits :
    decodeWord 0x01E0 = .ok .cls ∧ decodeWord 0x0FE0 = .ok .cls ∧ decodeWord 0x0FC0 = .ok (.scd 0) ∧
    decodeWord 0x5121 = .ok (.seReg 1 2) ∧ decodeWord 0x912F = .ok (.sneReg 1 2) := by decide

/-- Vectors E-7 to E-10: the misses. -/
theorem test_decode_misses :
    ([0x0000, 0x0123, 0x00B1, 0x00FA, 0x00E1, 0x00DF, 0x8008, 0x8009, 0x800A, 0x800B, 0x800C, 0x800D, 0x800F, 0xE09F,
      0xE0A0, 0xE000, 0xF000, 0xF001, 0xF002, 0xF0FF, 0xF031, 0xF056].all
        fun w => (decodeTableWord 16 w).isNone) = true := by decide +kernel

/-! ## Instructions -/

/-- The machine at power-on with V0, V1, … as listed. -/
def machine (vs : List Byte) : State := { State.reset with v := Vector.ofFn fun k => vs.getD k.val 0 }

/-- The state one step after the word `w` stands at PC. -/
def ran (w : Nat) (s : State) : Option State :=
  match step (s.withFetchWord 16 w) with
  | .next t => some t
  | .fault _ => none
  | .refused _ => none

/-- The first `n` registers. -/
def regs (n : Nat) (t : State) : List Byte := t.v.toList.take n

/-- The upper left corner of the grid. -/
def corner (wd ht : Nat) (t : State) : List (List Bool) := (t.fb.rows.take ht).map (·.take wd)

/-- The machine with the listed pixels on and `dirty` down. -/
def lit (m : Mode) (ps : List (Nat × Nat)) (s : State) : State :=
  { s with fb := { ps.foldl (fun fb p => fb.toggle p.1 p.2) (Framebuffer.reallocated m) with dirty := false } }

/-- Sixteen registers holding 0, 1, …, 15. -/
def counting : List Byte := (List.range 16).map (BitVec.ofNat 8)

/-- V-1. -/
theorem test_cls : (ran 0x00E0 (lit .hi [(0, 0)] (machine []))).map
    (fun t => (t.fb.mode, t.fb.get 0 0, t.fb.dirty, t.pc)) = some (.hi, false, true, 0x202) := by decide +kernel

/-- V-14, V-16. -/
theorem test_scd : (ran 0x00C2 (lit .lo [(3, 0)] (machine []))).map
      (fun t => (t.fb.get 3 0, t.fb.get 3 2, t.fb.dirty)) = some (false, true, true) ∧
    (ran 0x00C0 (lit .lo [(0, 0)] (machine []))).map
      (fun t => (t.fb.get 0 0, t.fb.dirty)) = some (true, false) := by decide +kernel

/-- V-15. -/
theorem test_scd_discards : (ran 0x00CF (lit .lo [(0, 20)] (machine []))).map
    (fun t => decide (t.fb.rows = Mode.lo.blank)) = some true := by decide +kernel

/-- V-17, V-19. -/
theorem test_scr : (ran 0x00FB (lit .lo [(0, 0), (62, 5)] (machine []))).map
      (fun t => (t.fb.get 4 0, t.fb.get 0 0, t.fb.get 62 5, t.fb.get 2 5)) = some (true, false, false, false) ∧
    (ran 0x00FB (lit .hi [(123, 0), (124, 0)] (machine []))).map
      (fun t => (t.fb.get 127 0, t.fb.get 0 0)) = some (true, false) := by decide +kernel

/-- V-18. -/
theorem test_scl : (ran 0x00FC (lit .hi [(10, 7), (2, 7)] (machine []))).map
    (fun t => (t.fb.get 6 7, t.fb.get 10 7, t.fb.get 2 7, t.fb.get 126 7)) = some (true, false, false, false) := by
  decide +kernel

/-- V-20 (SRC-7), V-21. -/
theorem test_high : (ran 0x00FF (lit .lo [(0, 0)] (machine []))).map
      (fun t => (t.fb.mode, t.fb.get 0 0, t.fb.dirty, t.outputs)) =
        some (.hi, false, true, [.resolutionChanged .hi]) ∧
    (ran 0x00FF (lit .hi [(0, 0)] (machine []))).map
      (fun t => (t.fb.mode, t.fb.get 0 0, t.fb.dirty, t.outputs)) = some (.hi, true, false, []) := by decide +kernel

/-- V-22. -/
theorem test_low : (ran 0x00FE (lit .hi [(0, 0)] (machine []))).map
    (fun t => (t.fb.mode, t.fb.get 0 0, t.outputs)) = some (.lo, false, [.resolutionChanged .lo]) := by decide +kernel

/-- V-2: the glyph "0" of the default font. -/
theorem test_drw_glyph : (ran 0xD015 (machine [])).map (fun t => (corner 5 6 t, t.v.get vf)) =
    some ([[true, true, true, true, false], [true, false, false, true, false], [true, false, false, true, false],
      [true, false, false, true, false], [true, true, true, true, false],
      [false, false, false, false, false]], 0) := by decide +kernel

/-- V-7 (the origin is read before VF is reset) and V-12 (16 × 16, wrapped in both directions). -/
theorem test_drw_origin_and_wide :
    (ran 0xDF11 ({ machine counting with i := 0x300, v := ((machine counting).v.set 15 10).set 1 0 }.memWrite
      0x300 0x80)).map (fun t => (t.fb.get 10 0, t.v.get vf)) = some (true, 0) ∧
    (ran 0xD010 (lit .hi [] ({ machine [120, 60] with i := 0x300 }.memWriteList 0x300
      (List.replicate 32 0xFF)))).map
      (fun t => (t.fb.get 7 11, t.fb.get 120 60, t.fb.get 8 0, t.fb.get 0 12, t.v.get vf)) =
        some (true, true, false, false, 0) := by decide +kernel

/-- C-4, C-5. -/
theorem test_ret :
    (ran 0x00EE { machine [] with pc := 0x300, sp := 1, stack := (machine []).stack.set 0 0x204 }).map
      (fun t => (t.pc, t.sp)) = some (0x204, 0) ∧
    (ran 0x00EE (machine [])).map (fun t => (t.pc, t.sp, t.status, t.outputs)) =
      some (0x202, 0, .faulted .stackUnderflow, [.status (.faulted .stackUnderflow 0x200 0x00EE)]) := by
  decide +kernel

/-- C-18. -/
theorem test_exit : (ran 0x00FD { machine [] with pc := 0x202 }).map (fun t => (t.pc, t.status, t.outputs)) =
    some (0x204, .halted, [.status .halted]) := by decide +kernel

/-- C-1. -/
theorem test_jp : (ran 0x1ABC (machine [])).map (·.pc) = some 0xABC := by decide +kernel

/-- C-3, C-7. -/
theorem test_call : (ran 0x2300 (machine [])).map (fun t => (t.pc, t.sp, t.stack.get 0)) = some (0x300, 1, 0x202) ∧
    (ran 0x2300 { machine [] with pc := 0xFFE }).map (fun t => (t.pc, t.stack.get 0)) = some (0x300, 0x1000) := by
  decide +kernel

/-- C-6. -/
theorem test_call_full : (ran 0x2400 { machine [] with pc := 0x300, sp := 16 }).map
    (fun t => (t.pc, t.sp, t.status, t.outputs)) =
      some (0x302, 16, .faulted .stackOverflow, [.status (.faulted .stackOverflow 0x300 0x2400)]) := by decide +kernel

/-- C-8, C-9. -/
theorem test_skip_immediate :
    [0x3342, 0x3343, 0x4342, 0x4343].map (fun w => (ran w (machine [0, 0, 0, 0x42])).map (·.pc)) =
      [some 0x204, some 0x202, some 0x202, some 0x204] := by decide +kernel

/-- C-10, C-11, E-11. -/
theorem test_skip_register :
    [0x5120, 0x9120, 0x5550, 0x9550, 0x5121].map (fun w => (ran w (machine [0, 7, 7])).map (·.pc)) =
      [some 0x204, some 0x202, some 0x204, some 0x202, some 0x204] := by decide +kernel

/-- C-13: the skip wraps PC, and the fetch reads at PC modulo 4096. -/
theorem test_skip_wraps : (ran 0x3000 { machine [] with pc := 0xFFFC }).map (·.pc) = some 0x0000 := by decide +kernel

/-- C-15, C-16, C-17. -/
theorem test_jpV0 : (ran 0xBFF8 (machine [0x10])).map (·.pc) = some 0x008 ∧
    (ran 0xBFFF (machine [0xFF])).map (·.pc) = some 0x0FE ∧
    (ran 0xB200 (machine [0, 0, 9])).map (·.pc) = some 0x200 := by decide +kernel

/-- A-1. -/
theorem test_ldImm : (ran 0x6A42 (machine [])).map (·.v.get 0xA) = some 0x42 := by decide +kernel

/-- A-2. -/
theorem test_addImm : (ran 0x7001 { machine [0xFF] with v := (machine [0xFF]).v.set 15 5 }).map
    (fun t => (t.v.get 0, t.v.get vf)) = some (0, 5) := by decide +kernel

/-- A-4. -/
theorem test_ldReg : (ran 0x8010 (machine [0, 0x5A])).map (·.v.get 0) = some 0x5A := by decide +kernel

/-- A-5, with 0x3C in place of 0xF0 so that the three differ, and A-6. -/
theorem test_bitwise :
    [0x8011, 0x8012, 0x8013, 0x8003].map (fun w =>
      (ran w { machine [] with v := (machine [0x0F, 0x3C]).v.set 15 7 }).map (fun t => (t.v.get 0, t.v.get vf))) =
      [some (0x3F, 7), some (0x0C, 7), some (0x33, 7), some (0, 7)] := by decide +kernel

/-- SRC-1. -/
theorem test_addReg : [[0xC8, 0x64], [0xFF, 0x01], [0x7F, 0x80], [0x00, 0x00], [0xFF, 0xFF]].map (fun vs =>
      (ran 0x8014 (machine vs)).map (fun t => (t.v.get 0, t.v.get vf))) =
    [some (0x2C, 1), some (0x00, 1), some (0xFF, 0), some (0x00, 0), some (0xFE, 1)] := by decide +kernel

/-- A-8, A-9: VF as destination and as operand. -/
theorem test_addReg_vf : (ran 0x8F14 { machine [] with v := (machine [0, 0x90]).v.set 15 0x80 }).map (·.v.get vf) =
      some 1 ∧
    (ran 0x80F4 { machine [] with v := (machine [0x10]).v.set 15 0xF5 }).map (fun t => (t.v.get 0, t.v.get vf)) =
      some (0x05, 1) := by decide +kernel

/-- SRC-2, A-10. -/
theorem test_subReg : [[0x05, 0x07], [0x07, 0x05], [0x05, 0x05], [0x00, 0xFF], [0xFF, 0x00]].map (fun vs =>
      (ran 0x8015 (machine vs)).map (fun t => (t.v.get 0, t.v.get vf))) =
    [some (0xFE, 0), some (0x02, 1), some (0x00, 1), some (0x01, 0), some (0xFF, 1)] ∧
    (ran 0x8F15 { machine [] with v := (machine [0, 0x05]).v.set 15 0x03 }).map (·.v.get vf) = some 0 := by
  decide +kernel

/-- A-12, A-13, SRC-12. -/
theorem test_subn : [[0x07, 0x05], [0x05, 0x07], [0x80, 0x80]].map (fun vs =>
      (ran 0x8017 (machine vs)).map (fun t => (t.v.get 0, t.v.get vf))) =
    [some (0xFE, 0), some (0x02, 1), some (0x00, 1)] := by decide +kernel

/-- SRC-3 (a), (c), A-14 (the result stays in VF), A-15. -/
theorem test_shr : (ran 0x8016 (machine [0xAA, 0x05])).map (fun t => (t.v.get 0, t.v.get vf)) = some (0x02, 1) ∧
    (ran 0x8116 (machine [0, 0x05])).map (fun t => (t.v.get 1, t.v.get vf)) = some (0x02, 1) ∧
    (ran 0x8F16 (machine [0, 0x05])).map (·.v.get vf) = some 0x02 ∧
    (ran 0x80F6 { machine [] with v := (machine []).v.set 15 0x03 }).map (fun t => (t.v.get 0, t.v.get vf)) =
      some (0x01, 1) := by decide +kernel

/-- SRC-3 (b), A-16, A-17 (the result stays in VF). -/
theorem test_shl : (ran 0x801E (machine [0x00, 0x81])).map (fun t => (t.v.get 0, t.v.get vf)) = some (0x02, 1) ∧
    (ran 0x801E (machine [0, 0x40])).map (fun t => (t.v.get 0, t.v.get vf)) = some (0x80, 0) ∧
    (ran 0x8F1E (machine [0, 0x81])).map (·.v.get vf) = some 0x02 := by decide +kernel

/-- A-20, A-22, with the draw supplied. -/
theorem test_rnd : (ran 0xC30F { machine [] with randoms := [0xA7] }).map (fun t => (t.v.get 3, t.randoms)) =
      some (0x07, []) ∧
    (ran 0xC3FF { machine [] with randoms := [0x5C, 1] }).map (fun t => (t.v.get 3, t.randoms)) =
      some (0x5C, [1]) := by decide +kernel

/-- M-1. -/
theorem test_ldI : (ran 0xA123 { machine [] with i := 0xFFFF }).map (·.i) = some 0x123 := by decide +kernel

/-- M-2, M-3, M-5. -/
theorem test_addI : [(0x0FFE#16, 3), (0x0FFF, 0), (0xFFFF, 1)].map (fun p =>
      (ran 0xF21E { machine [0, 0, p.2] with i := p.1 }).map (fun t => (t.i, t.v.get vf))) =
    [some (0x1001, 1), some (0x0FFF, 0), some (0x0000, 1)] := by decide +kernel

/-- M-6: x = F, the flag is written second. -/
theorem test_addI_vf : (ran 0xFF1E { machine [] with i := 0x100, v := (machine []).v.set 15 2 }).map
    (fun t => (t.i, t.v.get vf)) = some (0x102, 0) := by decide +kernel

/-- M-7, M-8. -/
theorem test_ldF : (ran 0xF429 (machine [0, 0, 0, 0, 0xA])).map (·.i) = some 0x32 ∧
    (ran 0xF329 (machine [0, 0, 0, 0x20])).map (·.i) = some 0xA0 := by decide +kernel

/-- M-9, M-10. -/
theorem test_ldHF : (ran 0xF130 (machine [0, 3])).map (·.i) = some 0x1E ∧
    (ran 0xF130 (machine [0, 0xFF])).map (·.i) = some 0x9F6 := by decide +kernel

/-- SRC-6, M-12, M-13 (the addresses wrap one by one). -/
theorem test_ldB : (ran 0xF033 { machine [214] with i := 0x300 }).map
      (fun t => ([0x300, 0x301, 0x302].map t.memRead, t.i)) = some ([2, 1, 4], 0x300) ∧
    (ran 0xF033 { machine [0xFF] with i := 0x300 }).map (fun t => [0x300, 0x301, 0x302].map t.memRead) =
      some [2, 5, 5] ∧
    (ran 0xF033 { machine [123] with i := 0xFFF }).map (fun t => ([0xFFF, 0, 1].map t.memRead, t.i)) =
      some ([1, 2, 3], 0xFFF) := by decide +kernel

/-- SRC-5, M-15. -/
theorem test_storeRegs : (ran 0xF355 { machine [1, 2, 3, 4] with i := 0x300 }).map
      (fun t => ([0x300, 0x301, 0x302, 0x303, 0x304].map t.memRead, t.i)) = some ([1, 2, 3, 4, 0], 0x304) ∧
    (ran 0xF355 { machine [1, 2, 3, 4] with i := 0xFFE }).map
      (fun t => ([0xFFE, 0xFFF, 0, 1].map t.memRead, t.i)) = some ([1, 2, 3, 4], 0x1002) := by decide +kernel

/-- M-17; and the default font read through I = 0. -/
theorem test_loadRegs : (ran 0xF265 ({ machine [] with i := 0x300 }.memWriteList 0x300 [7, 8, 9, 10])).map
      (fun t => (regs 4 t, t.i)) = some ([7, 8, 9, 0], 0x303) ∧
    (ran 0xF165 (machine [])).map (fun t => (regs 3 t, t.i)) = some ([0xF0, 0x90, 0], 2) := by decide +kernel

/-- M-18, and that the range ends at x. -/
theorem test_saveFlags : (ran 0xFF75 (machine counting)).map (·.uf.toList) = some counting ∧
    (ran 0xF175 (machine [3, 4, 5])).map (·.uf.toList.take 3) = some [3, 4, 0] := by decide +kernel

/-- M-19. -/
theorem test_restoreFlags : (ran 0xF285 { machine [] with uf := (machine [9, 8, 7, 6]).v }).map (regs 4) =
    some [9, 8, 7, 0] := by decide +kernel

/-- K-1, K-2, K-4. -/
theorem test_skp :
    (ran 0xE59E { machine [0, 0, 0, 0, 0, 3] with key := (machine []).key.set 3 true }).map (·.pc) = some 0x204 ∧
    (ran 0xE59E (machine [0, 0, 0, 0, 0, 3])).map (·.pc) = some 0x202 ∧
    (ran 0xE59E (machine [0, 0, 0, 0, 0, 0x10])).map (fun t => (t.pc, t.status, t.outputs)) =
      some (0x202, .faulted .badKeyIndex, [.status (.faulted .badKeyIndex 0x200 0xE59E)]) := by decide +kernel

/-- K-3, K-5. -/
theorem test_sknp : (ran 0xE5A1 (machine [0, 0, 0, 0, 0, 3])).map (·.pc) = some 0x204 ∧
    (ran 0xE5A1 (machine [0, 0, 0, 0, 0, 0xFF])).map (fun t => (t.pc, t.status)) =
      some (0x202, .faulted .badKeyIndex) := by decide +kernel

/-- K-6. -/
theorem test_ldVxDT : (ran 0xF307 { machine [] with dt := 0x20, st := 1 }).map (·.v.get 3) = some 0x20 := by
  decide +kernel

/-- K-9, K-11. -/
theorem test_ldVxK :
    (ran 0xF50A { machine [] with key := ((machine []).key.set 9 true).set 2 true }).map
      (fun t => (t.v.get 5, t.pc)) = some (2, 0x202) ∧
    (ran 0xFF0A { machine [] with key := (machine []).key.set 15 true }).map (fun t => (t.v.get vf, t.pc)) =
      some (0x0F, 0x202) := by decide +kernel

/-- K-10 (SRC-14). -/
theorem test_ldVxK_rewinds : (ran 0xF50A (machine [1, 2, 3, 4, 5, 6])).map (fun t => (t.v.get 5, t.pc, t.status)) =
    some (6, 0x200, .running) := by decide +kernel

/-- K-7. -/
theorem test_ldDT : (ran 0xF315 (machine [0, 0, 0, 0x3C])).map (fun t => (t.dt, t.st)) = some (0x3C, 0) := by
  decide +kernel

/-- K-8. -/
theorem test_ldST : (ran 0xF018 { machine [] with st := 5 }).map (fun t => (t.st, t.dt, t.outputs)) =
    some (0, 0, []) := by decide +kernel

/-- E-3, E-4 and S-9: the fetch wraps byte by byte, PC by 16 bits, and a miss is reported and goes on. -/
theorem test_fetch_wraps_and_misses :
    (ran 0x6A42 { machine [] with pc := 0xFFF }).map (fun t => (t.v.get 0xA, t.pc)) = some (0x42, 0x1001) ∧
    (ran 0x6A42 { machine [] with pc := 0xFFFE }).map (fun t => (t.v.get 0xA, t.pc)) = some (0x42, 0x0000) ∧
    (ran 0x0123 (machine [])).map (fun t => (t.pc, t.status, t.outputs)) =
      some (0x202, .running, [.decodeMiss 0x200 0x0123]) := by decide +kernel

/-! ## The loop and the host -/

/-- The machine running, with its next turns listed. -/
def running (ts : List Turn) (s : State) : State := { s with status := .running, turns := ts }

/-- The state after `k` steps. -/
def after (k : Nat) (s : State) : Option State :=
  match core.run k s with
  | .next t => some t
  | .fault _ => none
  | .refused _ => none

/-- SRC-11, S-3's timers: a tick with ST = 1. -/
theorem test_tick_tone : (after 1 { State.reset with status := .running, acc := 1/60, dt := 5, st := 1 }).map
    (fun t => (t.dt, t.st, t.acc, t.fb.dirty, t.outputs.take 1)) = some (4, 0, 0, false, [.toneElapsed]) := by
  decide +kernel

/-- S-5: 0.040 s gives two ticks and leaves 1/150 s. -/
theorem test_catch_up : (after 3 { State.reset with
      status := .running, place := .clock, dt := 5, readings := [⟨40, 999⟩] }).map
    (fun t => (t.dt, t.acc, t.place)) = some (3, 1/150, .top) := by
  decide +kernel

/-- 60_exceptions.md R441, R447: a reset is queued, then applied at the start of the iteration; a key delivered after it is
down for that iteration's CPU step (EX9E on key 0), and one delivered before it is cleared. -/
theorem test_key_between_reset_and_cpu_step :
    [[Turn.host .reset, .core, .host (.keySet 0 true), .core],
      [.host .reset, .host (.keySet 0 true), .core, .core]].map (fun ts =>
        (after 4 ({ machine [9] with status := .running, turns := ts }.memWriteList 0x200 [0xE0, 0x9E])).map
          fun t => (t.pc, t.v.get 0)) = [some (0x204, 0), some (0x202, 0)] := by decide +kernel

/-- S-8: a cancellation stops the loop at the start of the next iteration, with no step; and one asked for after that start,
in an iteration whose instruction halts, is over with the run. -/
theorem test_cancel :
    (after 2 (running [.host .cancel] (machine [9]))).map (fun t => (t.status, t.pc, t.v.get 0)) =
      some (.idle, 0x200, 9) ∧
    (after 3 ((running [.core, .host .cancel] (machine [])).memWriteList
      0x200 [0x00, 0xFD])).map (fun t => (t.status, t.pc, t.cancelRequested)) =
        some (.halted, 0x202, false) := by decide +kernel

/-- R-3, R-4: a reset of a faulted engine in Lo. -/
theorem test_reset_faulted : (after 1 { machine [1, 2] with
      status := .faulted .stackOverflow, sp := 16, i := 5, uf := (machine [3]).v, turns := [.host .reset] }).map
    (fun t => (t.status, regs 2 t, t.sp, t.uf.get 0, t.outputs)) = some (.idle, [0, 0], 0, 3, []) := by
  decide +kernel

/-- R-5, R-9 and 70_reset_and_hazards.md R466: load, start, first instruction. -/
theorem test_boot : (after 4 { State.reset with turns := [.host (.load [0x6A, 0x42]), .host .start] }).map
    (fun t => (t.v.get 0xA, t.pc, t.status)) = some (0x42, 0x202, .running) := by decide +kernel

/-- R-7: a program one byte too long. -/
theorem test_load_too_long : (after 1 { State.reset with turns := [.host (.load (List.replicate 3585 1))] }).map
    (fun t => (t.mem, t.outputs)) = some ([], [.status .loadError]) := by decide +kernel

/-! ## Witnesses: for each obligation with hypotheses, what meets them, each clause at a boundary of its range -/

/-- The machine about to fetch the word `w`. -/
def ready (w : Nat) (s : State) : State := s.withFetchWord 16 w

theorem wit_DecodeEncodeRoundTrip :
    (Instr.scd 15).wf = true ∧ (Instr.scd 0).wf = true ∧ (Instr.drw 15 15 15).wf = true ∧
    (Instr.jp 0xFFF).wf = true := by decide

theorem wit_DispatchFollowsOpcodeMap :
    (∃ r ∈ opcodeMap, r.selects 0xF185 = true) ∧ (∀ r ∈ opcodeMap, r.selects 0x0000 = false) :=
  ⟨⟨⟨0xF0FF, 0xF085, fun w => .restoreFlags (xOf w)⟩, by simp [opcodeMap, opcodeRowsGroupF], by decide⟩,
    fun r hr => by
      have h : opcodeMap.all (fun r => !r.selects 0x0000) = true := by decide
      simpa using List.all_eq_true.1 h r hr⟩

theorem wit_MissSpaceIsExactAndNonFatal :
    (ready 0x00DF State.reset).Fetching ∧
    decodeWord ((ready 0x00DF State.reset).wordAt (ready 0x00DF State.reset).pc) = .error (.group0 0xDF) := by
  decide +kernel

theorem wit_StepRunsDecodedInstruction :
    ((ready 0x00E0 State.reset).Fetching ∧
      (0x00E0#16 : Word) = (ready 0x00E0 State.reset).memRead (0x200 % 4096) ++
        (ready 0x00E0 State.reset).memRead ((0x200 + 1) % 4096) ∧ decodeWord 0x00E0 = .ok .cls) ∧
    ((ready 0x8008 { State.reset with pc := 0xFFFF }).Fetching ∧
      (0x8008#16 : Word) = (ready 0x8008 { State.reset with pc := 0xFFFF }).memRead (0xFFFF % 4096) ++
        (ready 0x8008 { State.reset with pc := 0xFFFF }).memRead ((0xFFFF + 1) % 4096) ∧
      decodeWord 0x8008 = .error (.group8 8)) := by decide +kernel

theorem wit_PlacedWordRunsNext : Memory.wf State.reset.mem ∧ decodeWord 0xFF85 = .ok (.restoreFlags 15) := by decide

/-- Arithmetic and FX1E: a destination other than VF, and a third register. -/
theorem wit_flag_registers : (0 : Reg) ≠ vf ∧ (14 : Reg) ≠ 0 ∧ (14 : Reg) ≠ vf := by decide

theorem wit_RandomByteIsMasked : { State.reset with randoms := [0xFF] }.randoms = (0xFF : Byte) :: [] := rfl

theorem wit_CallPushesOrOverflows :
    State.reset.sp.val < 16 ∧ { State.reset with sp := 15 }.sp.val < 16 ∧
    { State.reset with sp := 16 }.sp.val = 16 := by decide

theorem wit_ReturnPopsOrUnderflows :
    { State.reset with sp := 1 }.sp.val = (0 : Fin 16).val + 1 ∧
    { State.reset with sp := 16 }.sp.val = (15 : Fin 16).val + 1 ∧ State.reset.sp.val = 0 := by decide

theorem wit_CallThenReturnResumes : ∃ t u : State, { State.reset with sp := 15 }.sp.val < 16 ∧
    exec (.call 0xFFF) { State.reset with sp := 15 } = .next t ∧ exec .ret { t with pc := t.pc + 2 } = .next u :=
  ⟨_, _, by decide, rfl, rfl⟩

theorem wit_ExitHalts : (ready 0x00FD State.reset).Fetching ∧
    decodeWord ((ready 0x00FD State.reset).wordAt (ready 0x00FD State.reset).pc) = .ok .exit := by decide +kernel

theorem wit_ResolutionSwitchReallocates :
    State.reset.fb.mode = .lo ∧ (lit .hi [(127, 63)] State.reset).fb.mode = .hi := ⟨rfl, rfl⟩

theorem wit_ScrollsMovePixels : State.reset.fb.wf ∧ (lit .hi [(127, 63)] State.reset).fb.wf ∧ (0 : Nat) < 1 ∧
    63 < State.reset.fb.mode.width ∧ 31 < State.reset.fb.mode.height := by decide +kernel

theorem wit_ScrollUpMovesPixels : (lit .hi [(127, 63)] State.reset).fb.wf ∧ (64 : Nat) ≠ 0 ∧
    127 < (lit .hi [] State.reset).fb.mode.width ∧ 63 < (lit .hi [] State.reset).fb.mode.height := by decide +kernel

/-- The machine with I at its program base, where a byte with bit 7 set stands. -/
def sprite (fb : Framebuffer) : State := { State.reset with fb := fb, i := 0x300 }.memWrite 0x300 0x80

theorem sprite_set (fb : Framebuffer) : (sprite fb).SpriteSet 1 0 0 := by
  rw [State.SpriteSet, if_neg (by simp)]
  refine ⟨by decide, by decide, ?_⟩
  show (Memory.read (Memory.write [] 0x300 0x80) 0x300).getLsbD 7 = true
  decide

/-- Drawing: a sprite with a set cell, over a pixel that is on and over one that is off; and a sprite with no set cell. -/
theorem wit_DrawTurnsCoveredPixels :
    (15 < 16) ∧ (sprite State.reset.fb).fb.wf ∧
    ((∃ c r, (sprite State.reset.fb).SpriteSet 1 c r) ∧ (sprite State.reset.fb).SpriteCovers 0 0 1 0 0 ∧
      ¬∃ p q, (sprite State.reset.fb).SpriteCovers 0 0 1 p q ∧ (sprite State.reset.fb).fb.get p q = true) ∧
    (∃ p q, (sprite (State.reset.fb.toggle 0 0)).SpriteCovers 0 0 1 p q ∧
      (sprite (State.reset.fb.toggle 0 0)).fb.get p q = true) ∧
    (¬∃ c r, State.reset.SpriteSet 0 c r) ∧ ¬State.reset.SpriteCovers 0 0 0 63 31 := by
  have none_set : ¬∃ c r, State.reset.SpriteSet 0 c r := by
    rintro ⟨c, r, h⟩
    rw [State.SpriteSet, if_neg (by decide)] at h
    exact Nat.not_lt_zero r h.2.1
  refine ⟨by decide, by decide +kernel, ⟨⟨0, 0, sprite_set _⟩, ⟨0, 0, sprite_set _, rfl, rfl⟩, ?_⟩,
    ⟨0, 0, ⟨0, 0, sprite_set _, rfl, rfl⟩, by decide +kernel⟩, none_set, ?_⟩
  · rintro ⟨p, q, -, h⟩
    have off : ∀ row ∈ (sprite State.reset.fb).fb.rows, ∀ b ∈ row, b = false := by decide +kernel
    simp only [Framebuffer.get, List.getD_eq_getElem?_getD] at h
    cases hr : (sprite State.reset.fb).fb.rows[q % (sprite State.reset.fb).fb.mode.height]? with
    | none => simp [hr] at h
    | some row =>
      simp only [hr, Option.getD_some] at h
      cases hb : row[p % (sprite State.reset.fb).fb.mode.width]? with
      | none => simp [hb] at h
      | some b =>
        simp only [hb, Option.getD_some] at h
        exact absurd h (by simp [off row (List.mem_of_getElem? hr) b (List.mem_of_getElem? hb)])
  · rintro ⟨c, r, h, -⟩
    exact none_set ⟨c, r, h⟩

theorem wit_DrawZeroInLowResOnlyClearsVF : State.reset.fb.mode = .lo := rfl

theorem wit_DrawTwiceRestoresGrid : ∃ t u : State, (1 < 16) ∧ (sprite State.reset.fb).fb.wf ∧
    exec (.drw 0 1 1) (sprite State.reset.fb) = .next t ∧ t.v.get 0 = (sprite State.reset.fb).v.get 0 ∧
    t.v.get 1 = (sprite State.reset.fb).v.get 1 ∧ exec (.drw 0 1 1) t = .next u :=
  ⟨_, _, by decide, by decide +kernel, rfl, rfl, rfl, rfl⟩

/-- FX33 and FX55 at the top of memory: canonical memory, the last register of the range, an address outside. -/
theorem wit_stores : Memory.wf { State.reset with i := 0xFFFF }.mem ∧ (15 : Reg) ≤ 15 ∧
    Outside { State.reset with i := 0xFFFF } 3 0xFFE ∧ Outside { State.reset with i := 0xFFFF } 16 15 := by
  unfold Outside; decide +kernel

theorem wit_LoadRegistersReadsRange : (14 : Reg) ≤ 14 ∧ (14 : Reg) < 15 := by decide

theorem wit_StoreIsSeenByNextFetch : ∃ t : State, Memory.wf { State.reset with i := 0x1200 }.mem ∧ (1 : Reg) ≤ 1 ∧
    { State.reset with i := 0x1200 }.i.toNat % 4096 = { State.reset with i := 0x1200 }.pc.toNat % 4096 ∧
    exec (.storeRegs 1) { State.reset with i := 0x1200 } = .next t :=
  ⟨_, by decide, by decide, by decide, rfl⟩

theorem wit_StoreThenLoadRoundTrips : ∃ t u : State, Memory.wf State.reset.mem ∧
    exec (.storeRegs 15) State.reset = .next t ∧
    exec (.loadRegs 15) { t with i := State.reset.i, v := Vector.replicate 16 1 } = .next u :=
  ⟨_, _, by decide, rfl, rfl⟩

/-- A Running engine with a reset queued and FX0A at 0x200, and a key delivery after the start of the iteration. -/
def resetThenKey : State :=
  { running [.core, .host (.keySet 15 true), .core] ({ machine counting with pc := 0x300 }.memWriteList
      0x200 [0xFE, 0x0A]) with resetQueued := true }

/-- A Running engine with FX75 at PC, FX85 at 0x200, and the host's reset after the next core turn. -/
def savesThenReset : State :=
  { (({ machine counting with pc := 0x300 }.memWriteList 0x200 [0xFF, 0x85]).memWriteList 0x300 [0xFF, 0x75]) with
    status := .running, place := .step, turns := [.core, .host .reset], readings := [⟨1, 60⟩] }

theorem wit_UserFlagsSurviveReset :
    (∃ t r u : State, exec (.saveFlags 15) savesThenReset = .next t ∧ t.status = .running ∧ t.ResetTo r ∧
      exec (.restoreFlags 15) r = .next u) ∧
    (savesThenReset.turns = [.core, .host .reset] ∧ { savesThenReset with turns := [] }.Fetching ∧
      savesThenReset.cancelRequested = false ∧ savesThenReset.readings = ⟨1, 60⟩ :: [] ∧
      savesThenReset.acc + Config.Reading.seconds ⟨1, 60⟩ < Config.ioPeriod ∧
      decodeWord (savesThenReset.wordAt savesThenReset.pc) = .ok (.saveFlags 15) ∧
      decodeWord (savesThenReset.wordAt 0x200) = .ok (.restoreFlags 15)) :=
  ⟨⟨_, _, _, rfl, rfl, State.reinitialise_ResetTo _, rfl⟩, by decide +kernel⟩

theorem wit_KeySkipsOrBadIndex : ((machine [15]).v.get 0).toNat = (15 : Key).val ∧
    0xF < ((machine [16]).v.get 0).toNat := by decide

theorem wit_KeyWaitTakesLeastKeyOrRewinds :
    ({ State.reset with key := State.reset.key.set 15 true }.key.get 15 = true ∧
      ∀ j : Key, j < 15 → { State.reset with key := State.reset.key.set 15 true }.key.get j = false) ∧
    ∀ j : Key, State.reset.key.get j = false := by decide

theorem wit_frames : ∃ t u : State, exec (.addReg 0 1) (machine [1, 2]) = .next t ∧
    writesReg (.addReg 0 1) 14 = false ∧ Memory.wf State.reset.mem ∧ exec (.ldB 0) State.reset = .next u ∧
    Outside State.reset (bytesStored (.ldB 0)) 3 ∧ Outside State.reset (bytesStored (.ldB 0)) 4095 :=
  ⟨_, _, rfl, by decide, by decide, rfl, by unfold Outside; decide, by unfold Outside; decide⟩

theorem wit_OtherStateHasFewWriters : ∃ t : State, exec .cls State.reset = .next t ∧
    (∀ nnn x, Instr.cls ≠ .ldI nnn ∧ Instr.cls ≠ .addI x ∧ Instr.cls ≠ .ldF x ∧ Instr.cls ≠ .ldHF x ∧
      Instr.cls ≠ .storeRegs x ∧ Instr.cls ≠ .loadRegs x) ∧
    (∀ nnn, Instr.cls ≠ .call nnn ∧ Instr.cls ≠ .ret) ∧ (Instr.cls ≠ .low ∧ Instr.cls ≠ .high) :=
  ⟨_, rfl, by simp, by simp, by simp⟩

theorem wit_SoundTimerIsNeverRead : (∀ x, Instr.ldVxDT 0 ≠ .ldST x) ∧ ∃ x, Instr.ldST 15 = .ldST x :=
  ⟨by simp, 15, rfl⟩

theorem wit_FaultsArePreciseAndFew : ∃ t u r : State,
    (exec (.call 0) (running [] { State.reset with sp := 16 }) = .next t ∧ t.status = .faulted .stackOverflow) ∧
    (exec .ret (running [] State.reset) = .next u ∧ u.status = .faulted .stackUnderflow) ∧
    (exec (.sknp 0) (running [] (machine [16])) = .next r ∧ r.status = .faulted .badKeyIndex) ∧
    (running [] (machine [16])).status = .running :=
  ⟨_, _, _, ⟨rfl, rfl⟩, ⟨rfl, rfl⟩, ⟨rfl, rfl⟩, rfl⟩

theorem wit_StoppedEngineStaysAsItIs : State.reset.turns = [] ∧ State.reset.status ≠ .running ∧
    { State.reset with status := .halted }.status ≠ .running ∧
    { State.reset with status := .faulted .badKeyIndex }.status ≠ .running := by decide

theorem wit_IoTickCountsToneFlush :
    (running [] { State.reset with acc := Config.ioPeriod, st := 1 }).turns = [] ∧
    (running [] { State.reset with acc := Config.ioPeriod, st := 1 }).status = .running ∧
    (running [] { State.reset with acc := Config.ioPeriod, st := 1 }).place = .top ∧
    Config.ioPeriod ≤ (running [] { State.reset with acc := Config.ioPeriod, st := 1 }).acc := by decide +kernel

theorem wit_RedrawCarriesThePixels : State.reset.fb.wf ∧ 63 < State.reset.fb.mode.width ∧
    31 < State.reset.fb.mode.height := by decide +kernel

theorem wit_ClockAddsAnyElapsedTime :
    (running [] { State.reset with place := .clock, readings := [⟨1, 0⟩] }).turns = [] ∧
    (running [] { State.reset with place := .clock, readings := [⟨1, 0⟩] }).status = .running ∧
    (running [] { State.reset with place := .clock, readings := [⟨1, 0⟩] }).place = .clock ∧
    (running [] { State.reset with place := .clock, readings := [⟨1, 0⟩] }).readings = ⟨1, 0⟩ :: [] ∧
    (0 : Rat) ≤ 0 := by decide +kernel

theorem wit_CatchUpRunsWholePeriods :
    (running [] { State.reset with acc := 2/60 }).turns = [] ∧
    (running [] { State.reset with acc := 2/60 }).status = .running ∧
    (running [] { State.reset with acc := 2/60 }).place = .top ∧
    (0 : Rat) ≤ (running [] { State.reset with acc := 2/60 }).acc ∧
    ((2 : Nat) : Rat) * Config.ioPeriod ≤ (running [] { State.reset with acc := 2/60 }).acc ∧
    (running [] { State.reset with acc := 2/60 }).acc < (((2 : Nat) : Rat) + 1) * Config.ioPeriod := by decide +kernel

theorem wit_KeyDeliveryOverwrites :
    { State.reset with turns := [.host (.keySet 15 true)] }.turns = .host (.keySet 15 true) :: [] ∧
    (0 : Key) ≠ 15 := by decide

theorem wit_ResetProcedure :
    ({ State.reset with turns := [.host .reset] }.turns = .host .reset :: [] ∧
      { State.reset with turns := [.host .reset] }.status ≠ .running) ∧
    ((running [.host .reset] State.reset).turns = .host .reset :: [] ∧
      (running [.host .reset] State.reset).status = .running) ∧
    ((running [] { State.reset with resetQueued := true }).turns = [] ∧
      (running [] { State.reset with resetQueued := true }).status = .running ∧
      (running [] { State.reset with resetQueued := true }).place = .top ∧
      (running [] { State.reset with resetQueued := true }).acc < Config.ioPeriod ∧
      (running [] { State.reset with resetQueued := true }).cancelRequested = false ∧
      (running [] { State.reset with resetQueued := true }).resetQueued = true) := by decide +kernel

theorem wit_StartAndCancel :
    ({ State.reset with turns := [.host .start] }.turns = .host .start :: [] ∧ State.reset.status = .idle) ∧
    ({ State.reset with turns := [.host .start], status := .halted }.turns = .host .start :: [] ∧
      { State.reset with turns := [.host .start], status := .halted }.status ≠ .idle) ∧
    ((running [.host .cancel] State.reset).turns = .host .cancel :: [] ∧
      (running [.host .cancel] State.reset).status = .running) ∧
    ({ State.reset with turns := [.host .cancel] }.turns = .host .cancel :: [] ∧ State.reset.status ≠ .running) ∧
    ((running [] { State.reset with cancelRequested := true }).turns = [] ∧
      (running [] { State.reset with cancelRequested := true }).status = .running ∧
      (running [] { State.reset with cancelRequested := true }).place = .top ∧
      (running [] { State.reset with cancelRequested := true }).acc < Config.ioPeriod ∧
      (running [] { State.reset with cancelRequested := true }).cancelRequested = true) := by decide +kernel

theorem wit_ProgramLoad :
    (Memory.wf State.reset.mem ∧ State.reset.status ≠ .running ∧
      (List.replicate 3584 (1 : Byte)).length ≤ 3584) ∧
    (3584 < (List.replicate 3585 (1 : Byte)).length) ∧
    { State.reset with turns := [.host (.load [1])] }.turns = .host (.load [1]) :: [] ∧
    (running [.host (.load [1])] State.reset).status = .running ∧
    (running [.host (.load [1])] State.reset).turns = .host (.load [1]) :: [] :=
  ⟨⟨by decide, by decide, by rw [List.length_replicate]⟩, by rw [List.length_replicate]; decide, rfl, rfl, rfl⟩

theorem wit_BootReachesFirstFetch : ([] : List Byte).length ≤ 3582 ∧
    (List.replicate 3582 (0xFF : Byte)).length ≤ 3582 ∧ 1 < [(0x6A : Byte), 0x42].length ∧
    0x200 + [(0x6A : Byte), 0x42].length ≤ 4095 := ⟨by decide, by rw [List.length_replicate], by decide, by decide⟩

theorem wit_EveryStepKeepsInvariant : ∃ t : State, (ready 0x00FF State.reset).Inv ∧
    step (ready 0x00FF State.reset) = .next t := by
  obtain ⟨t, h⟩ := coreTransition_completes (ready 0x00FF State.reset)
  exact ⟨t, by decide +kernel, h⟩

theorem wit_IterationBeginsBeforeItsCpuStep :
    ((running [] State.reset).turns = [] ∧ (running [] State.reset).status = .running ∧
      (running [] State.reset).place = .top ∧ (running [] State.reset).acc < Config.ioPeriod ∧
      (running [] State.reset).cancelRequested = false ∧ (running [] State.reset).resetQueued = false) ∧
    (resetThenKey.turns = [.core, .host (.keySet 15 true), .core] ∧ resetThenKey.status = .running ∧
      resetThenKey.place = .top ∧ resetThenKey.acc < Config.ioPeriod ∧ resetThenKey.cancelRequested = false ∧
      resetThenKey.resetQueued = true ∧ decodeWord (resetThenKey.wordAt 0x200) = .ok (.ldVxK 14)) := by decide +kernel

theorem wit_ListedCoreTurnIsTheCoresTurn :
    (running [.core, .host .cancel] State.reset).turns = .core :: [.host .cancel] := rfl

end Sys2Proof.Tests
end

section
/-! PROOFS. What the words of group 0 decode to: their x nibble is not examined (30_encoding.md R123). -/

namespace Sys2Proof

theorem decodeWord_of_group0 {w : Word} (hg : group w = 0) : decodeWord w = decodeGroup0 w := by
  simp [decodeWord, hg]

/-- The decoder of group 0 reads the low byte only. -/
theorem decodeGroup0_congr {w v : Word} (hy : w.extractLsb' 4 4 = v.extractLsb' 4 4) (hn : nOf w = nOf v)
    (hnn : nnOf w = nnOf v) : decodeGroup0 w = decodeGroup0 v := by
  simp only [decodeGroup0, hy, hn, hnn]

/-- A word of group 0 decodes as the same word with its x nibble 0. -/
theorem decodeWord_of_mask_group0 {w v : Word} (h : w &&& 0xF0FF = v) (hv : group v = 0) :
    decodeWord w = decodeWord v := by
  have hg : group w = group v := field_of_mask 12 4 h (by decide)
  have hy : w.extractLsb' 4 4 = v.extractLsb' 4 4 := field_of_mask 4 4 h (by decide)
  have hn : nOf w = nOf v := field_of_mask 0 4 h (by decide)
  have hnn : nnOf w = nnOf v := field_of_mask 0 8 h (by decide)
  rw [decodeWord_of_group0 (hg.trans hv), decodeWord_of_group0 hv, decodeGroup0_congr hy hn hnn]

namespace Machine

/-- A row of group 0 without operands holds for all its words once it holds for the row's value. -/
theorem decodes_group0 {v : Word} {i : Instr} (hv : group v = 0) (hi : decodeWord v = .ok i) :
    Decodes 0xF0FF v (fun _ => i) :=
  fun _ h => (decodeWord_of_mask_group0 h hv).trans hi

end Machine
end Sys2Proof
end

section
/-! PROOFS. 00E0 (40_display.md R160). -/

namespace Sys2Proof.Machine

@[simp] theorem Framebuffer.clear_dirty (fb : Framebuffer) : fb.clear.dirty = true := rfl

theorem Framebuffer.clear_AllOff (fb : Framebuffer) : fb.clear.AllOff := Framebuffer.blank_AllOff fb.mode true

theorem exec_cls (s : State) : exec .cls s = .next { s with fb := s.fb.clear } := rfl

/-- Settles O20: the x nibble plays no part in the decoding, and the new framebuffer is `clear()` of the old one. -/
theorem clearTurnsEveryPixelOff : Obligations.ClearTurnsEveryPixelOff :=
  ⟨decodes_group0 (by decide) (by decide),
    fun s => ⟨s.fb.clear, exec_cls s, s.fb.clear_mode, s.fb.clear_AllOff, s.fb.clear_dirty⟩⟩

end Sys2Proof.Machine
end

section
/-! PROOFS. Rows that the top nibble alone selects (30_encoding.md R122), and the masked jump and the skips of
41_control.md. -/

namespace Sys2Proof.Machine

/-- A row without a secondary key holds for all its words once the top nibble decides the decoding. -/
theorem decodes_of_group {v : Word} {f : Word → Instr} (g : BitVec 4) (hv : group v = g)
    (hd : ∀ w, group w = g → decodeWord w = .ok (f w)) : Decodes 0xF000 v f :=
  fun w h => hd w ((field_of_mask 12 4 h (by decide)).trans hv)

/-- The mask of `jump` is the remainder modulo 4096. -/
theorem toNat_and_0xFFF (a : Word) : (a &&& 0xFFF).toNat = a.toNat % 4096 :=
  (BitVec.toNat_and a 0xFFF).trans (Nat.and_two_pow_sub_one_eq_mod a.toNat 12)

@[simp] theorem zextAddr_toNat (nnn : Addr) : (zextAddr nnn).toNat = nnn.toNat :=
  BitVec.toNat_setWidth_of_le (by decide)

@[simp] theorem zextByte_toNat (b : Byte) : (zextByte b).toNat = b.toNat :=
  BitVec.toNat_setWidth_of_le (by decide)

/-- A byte and a 12-bit immediate never wrap a word. -/
theorem zextByte_add_zextAddr_toNat (b : Byte) (nnn : Addr) :
    (zextByte b + zextAddr nnn).toNat = b.toNat + nnn.toNat := by
  rw [BitVec.toNat_add, zextByte_toNat, zextAddr_toNat]
  omega

theorem State.skipIf_beq (s : State) (a b : Byte) :
    s.skipIf (a == b) = if a = b then { s with pc := s.pc + 2 } else s := by
  simp only [State.skipIf_eq, beq_iff_eq]

theorem State.skipIf_bne (s : State) (a b : Byte) :
    s.skipIf (a != b) = if a = b then s else { s with pc := s.pc + 2 } := by
  simp only [State.skipIf_eq, bne_iff_ne, ite_not]

end Sys2Proof.Machine
end

section
/-! PROOFS. 1NNN and BNNN (41_control.md R203, R209). -/

namespace Sys2Proof.Machine

theorem decodes_jp : Decodes 0xF000 0x1000 (fun w => .jp (nnnOf w)) :=
  decodes_of_group 0x1 (by decide) fun w hg => by simp [decodeWord, hg]

theorem decodes_jpV0 : Decodes 0xF000 0xB000 (fun w => .jpV0 (nnnOf w)) :=
  decodes_of_group 0xB (by decide) fun w hg => by simp [decodeWord, hg]

theorem exec_jp (nnn : Addr) (s : State) : exec (.jp nnn) s = .next (s.jump (zextAddr nnn)) := rfl

theorem exec_jpV0 (nnn : Addr) (s : State) :
    exec (.jpV0 nnn) s = .next (s.jump (zextByte (s.v.get 0) + zextAddr nnn)) := rfl

/-- Settles O13: the mask of `jump` leaves a 12-bit immediate as it is, and reduces the sum, which does not wrap. -/
theorem jumpsSetPc : Obligations.JumpsSetPc := by
  refine ⟨decodes_jp, decodes_jpV0, fun nnn s => ⟨_, exec_jp nnn s, ?_⟩, fun nnn s => ⟨_, exec_jpV0 nnn s, ?_⟩⟩
  · rw [toNat_and_0xFFF, zextAddr_toNat, Nat.mod_eq_of_lt nnn.isLt]
  · rw [toNat_and_0xFFF, zextByte_add_zextAddr_toNat]

end Sys2Proof.Machine
end

section
/-! PROOFS. 3XNN and 4XNN (41_control.md R205, R206). -/

namespace Sys2Proof.Machine

theorem decodes_seImm : Decodes 0xF000 0x3000 (fun w => .seImm (xOf w) (nnOf w)) :=
  decodes_of_group 0x3 (by decide) fun w hg => by simp [decodeWord, hg]

theorem decodes_sneImm : Decodes 0xF000 0x4000 (fun w => .sneImm (xOf w) (nnOf w)) :=
  decodes_of_group 0x4 (by decide) fun w hg => by simp [decodeWord, hg]

theorem exec_seImm (x : Reg) (nn : Byte) (s : State) :
    exec (.seImm x nn) s = .next (s.skipIf (s.v.get x == nn)) := rfl

theorem exec_sneImm (x : Reg) (nn : Byte) (s : State) :
    exec (.sneImm x nn) s = .next (s.skipIf (s.v.get x != nn)) := rfl

/-- Settles O14: each is a skip on the comparison of Vx with nn, or on its negation. -/
theorem immediateSkipsAdvancePc : Obligations.ImmediateSkipsAdvancePc := by
  refine ⟨decodes_seImm, decodes_sneImm, fun x nn s => ?_, fun x nn s => ?_⟩
  · rw [exec_seImm, State.skipIf_beq]
  · rw [exec_sneImm, State.skipIf_bne]

end Sys2Proof.Machine
end

section
/-! PROOFS. The rows of group 8 (30_encoding.md R124), and the two ways 42_alu.md writes registers: a result into Vx,
and a result into Vx followed by a flag into VF. -/

namespace Sys2Proof.Machine

/-- A row of group 8 holds for all its words once the low nibble decides the secondary dispatch. -/
theorem decodes_group8 {v : Word} {f : Word → Instr} (n : BitVec 4) (hv : group v = 0x8) (hn : nOf v = n)
    (hd : ∀ w, nOf w = n → decodeGroup8 w = .ok (f w)) : Decodes 0xF00F v f := by
  intro w h
  have hg : group w = 0x8 := (field_of_mask 12 4 h (by decide)).trans hv
  have hw : decodeWord w = decodeGroup8 w := by simp [decodeWord, hg]
  exact hw.trans (hd w ((field_of_mask 0 4 h (by decide)).trans hn))

/-- An instruction that only writes `b` to Vx. -/
theorem exec_writes_reg {i : Instr} {s : State} {x : Reg} {b : Byte} (h : exec i s = .next (s.setReg x b)) :
    ∃ v, exec i s = .next { s with v := v } ∧ v.get x = b ∧ ∀ r, r ≠ x → v.get r = s.v.get r :=
  ⟨s.v.set x b, h, by simp, fun r hr => by simp [hr]⟩

/-- An instruction that writes `b` to Vx and then the flag `f` to VF: where Vx is VF, the flag stays. -/
theorem exec_writes_result_then_flag {i : Instr} {s : State} {x : Reg} {b : Byte} {f : Bool}
    (h : exec i s = .next (s.resultThenFlag x b f)) :
    ∃ v, exec i s = .next { s with v := v } ∧ (x ≠ vf → v.get x = b) ∧ v.get vf = flagByte f ∧
      ∀ r, r ≠ x → r ≠ vf → v.get r = s.v.get r :=
  ⟨(s.v.set x b).set vf (flagByte f), h, fun hx => by simp [hx], by simp, fun r hr hf => by simp [hr, hf]⟩

theorem flagByte_carryOut (a b : Byte) : flagByte (carryOut a b) = if a.toNat + b.toNat > 255 then 1 else 0 := by
  simp only [flagByte, carryOut, decide_eq_true_eq]

theorem flagByte_noBorrow (a b : Byte) : flagByte (noBorrow a b) = if a.toNat ≥ b.toNat then 1 else 0 := by
  simp only [flagByte, noBorrow, decide_eq_true_eq]

/-- The wrapped difference of two bytes is the exact one modulo 256. -/
theorem byte_toNat_sub_emod (a b : Byte) : ((a - b).toNat : Int) = (a.toNat - b.toNat : Int) % 256 := by
  have hb : b.toNat < 256 := b.isLt
  rw [BitVec.toNat_sub]
  omega

end Sys2Proof.Machine
end

section
/-! PROOFS. 6XNN, 7XNN and 8XY0 (42_alu.md R251 to R253). -/

namespace Sys2Proof.Machine

theorem decodes_ldImm : Decodes 0xF000 0x6000 (fun w => .ldImm (xOf w) (nnOf w)) :=
  decodes_of_group 0x6 (by decide) fun w hg => by simp [decodeWord, hg]

theorem decodes_addImm : Decodes 0xF000 0x7000 (fun w => .addImm (xOf w) (nnOf w)) :=
  decodes_of_group 0x7 (by decide) fun w hg => by simp [decodeWord, hg]

theorem decodes_ldReg : Decodes 0xF00F 0x8000 (fun w => .ldReg (xOf w) (yOf w)) :=
  decodes_group8 0x0 (by decide) (by decide) fun w hn => by simp [decodeGroup8, hn]

theorem exec_ldImm (x : Reg) (nn : Byte) (s : State) : exec (.ldImm x nn) s = .next (s.setReg x nn) := rfl

theorem exec_addImm (x : Reg) (nn : Byte) (s : State) :
    exec (.addImm x nn) s = .next (s.setReg x (s.v.get x + nn)) := rfl

theorem exec_ldReg (x y : Reg) (s : State) : exec (.ldReg x y) s = .next (s.setReg x (s.v.get y)) := rfl

/-- Settles O7: each is one write to Vx, and byte addition is addition modulo 256. -/
theorem registerLoadsAndImmediateAdd : Obligations.RegisterLoadsAndImmediateAdd := by
  refine ⟨decodes_ldImm, decodes_addImm, decodes_ldReg, fun x nn s => exec_writes_reg (exec_ldImm x nn s),
    fun x nn s => ?_, fun x y s => exec_writes_reg (exec_ldReg x y s)⟩
  obtain ⟨v, he, hx, hr⟩ := exec_writes_reg (exec_addImm x nn s)
  exact ⟨v, he, hx ▸ BitVec.toNat_add _ _, hr⟩

end Sys2Proof.Machine
end

section
/-! PROOFS. 8XY1, 8XY2 and 8XY3 (42_alu.md R254 to R256). -/

namespace Sys2Proof.Machine

theorem decodes_orReg : Decodes 0xF00F 0x8001 (fun w => .orReg (xOf w) (yOf w)) :=
  decodes_group8 0x1 (by decide) (by decide) fun w hn => by simp [decodeGroup8, hn]

theorem decodes_andReg : Decodes 0xF00F 0x8002 (fun w => .andReg (xOf w) (yOf w)) :=
  decodes_group8 0x2 (by decide) (by decide) fun w hn => by simp [decodeGroup8, hn]

theorem decodes_xorReg : Decodes 0xF00F 0x8003 (fun w => .xorReg (xOf w) (yOf w)) :=
  decodes_group8 0x3 (by decide) (by decide) fun w hn => by simp [decodeGroup8, hn]

theorem exec_orReg (x y : Reg) (s : State) :
    exec (.orReg x y) s = .next (s.setReg x (s.v.get x ||| s.v.get y)) := rfl

theorem exec_andReg (x y : Reg) (s : State) :
    exec (.andReg x y) s = .next (s.setReg x (s.v.get x &&& s.v.get y)) := rfl

theorem exec_xorReg (x y : Reg) (s : State) :
    exec (.xorReg x y) s = .next (s.setReg x (s.v.get x ^^^ s.v.get y)) := rfl

/-- Settles O8: each is one write to Vx of a word operation that acts on every bit by itself. -/
theorem bitwiseOperationsLeaveVF : Obligations.BitwiseOperationsLeaveVF := by
  refine ⟨decodes_orReg, decodes_andReg, decodes_xorReg, fun x y s => ?_, fun x y s => ?_, fun x y s => ?_⟩
  · obtain ⟨v, he, hx, hr⟩ := exec_writes_reg (exec_orReg x y s)
    exact ⟨v, he, fun k => hx ▸ BitVec.getLsbD_or, hr⟩
  · obtain ⟨v, he, hx, hr⟩ := exec_writes_reg (exec_andReg x y s)
    exact ⟨v, he, fun k => hx ▸ BitVec.getLsbD_and, hr⟩
  · obtain ⟨v, he, hx, hr⟩ := exec_writes_reg (exec_xorReg x y s)
    exact ⟨v, he, fun k => hx ▸ BitVec.getLsbD_xor, hr⟩

end Sys2Proof.Machine
end

section
/-! PROOFS. 8XY4 (42_alu.md R258). -/

namespace Sys2Proof.Machine

theorem decodes_addReg : Decodes 0xF00F 0x8004 (fun w => .addReg (xOf w) (yOf w)) :=
  decodes_group8 0x4 (by decide) (by decide) fun w hn => by simp [decodeGroup8, hn]

theorem exec_addReg (x y : Reg) (s : State) : exec (.addReg x y) s =
    .next (s.resultThenFlag x (s.v.get x + s.v.get y) (carryOut (s.v.get x) (s.v.get y))) := rfl

/-- Settles O9: the sum is written first and the carry of the operands as they were second. -/
theorem addSetsSumAndCarry : Obligations.AddSetsSumAndCarry := by
  refine ⟨decodes_addReg, fun x y s => ?_⟩
  obtain ⟨v, he, hx, hf, hr⟩ := exec_writes_result_then_flag (exec_addReg x y s)
  exact ⟨v, he, fun h => hx h ▸ BitVec.toNat_add _ _, hf.trans (flagByte_carryOut _ _), hr⟩

end Sys2Proof.Machine
end

section
/-! PROOFS. 8XY5 and 8XY7 (42_alu.md R259, R261). -/

namespace Sys2Proof.Machine

theorem decodes_subReg : Decodes 0xF00F 0x8005 (fun w => .subReg (xOf w) (yOf w)) :=
  decodes_group8 0x5 (by decide) (by decide) fun w hn => by simp [decodeGroup8, hn]

theorem decodes_subn : Decodes 0xF00F 0x8007 (fun w => .subn (xOf w) (yOf w)) :=
  decodes_group8 0x7 (by decide) (by decide) fun w hn => by simp [decodeGroup8, hn]

theorem exec_subReg (x y : Reg) (s : State) : exec (.subReg x y) s =
    .next (s.resultThenFlag x (s.v.get x - s.v.get y) (noBorrow (s.v.get x) (s.v.get y))) := rfl

theorem exec_subn (x y : Reg) (s : State) : exec (.subn x y) s =
    .next (s.resultThenFlag x (s.v.get y - s.v.get x) (noBorrow (s.v.get y) (s.v.get x))) := rfl

/-- Both subtractions at once, with `a` the minuend and `b` the subtrahend. -/
theorem exec_writes_difference {i : Instr} {s : State} {x : Reg} {a b : Byte}
    (h : exec i s = .next (s.resultThenFlag x (a - b) (noBorrow a b))) :
    ∃ v, exec i s = .next { s with v := v } ∧
      (x ≠ vf → ((v.get x).toNat : Int) = (a.toNat - b.toNat : Int) % 256) ∧
      v.get vf = (if a.toNat ≥ b.toNat then 1 else 0) ∧ ∀ r, r ≠ x → r ≠ vf → v.get r = s.v.get r := by
  obtain ⟨v, he, hx, hf, hr⟩ := exec_writes_result_then_flag h
  exact ⟨v, he, fun hne => hx hne ▸ byte_toNat_sub_emod a b, hf.trans (flagByte_noBorrow a b), hr⟩

/-- Settles O10: the two instructions differ only in which operand is the minuend. -/
theorem subtractionsSetDifferenceAndNoBorrow : Obligations.SubtractionsSetDifferenceAndNoBorrow :=
  ⟨decodes_subReg, decodes_subn, fun x y s => exec_writes_difference (exec_subReg x y s),
    fun x y s => exec_writes_difference (exec_subn x y s)⟩

end Sys2Proof.Machine
end

section
/-! PROOFS. The rows of group F (30_encoding.md R126). -/

namespace Sys2Proof.Machine

/-- A row of group F holds for all its words once the low byte decides the secondary dispatch. -/
theorem decodes_groupF {v : Word} {f : Word → Instr} (nn : Byte) (hv : group v = 0xF) (hnn : nnOf v = nn)
    (hd : ∀ w, nnOf w = nn → decodeGroupF w = .ok (f w)) : Decodes 0xF0FF v f := by
  intro w h
  have hg : group w = 0xF := (field_of_mask 12 4 h (by decide)).trans hv
  have hw : decodeWord w = decodeGroupF w := by simp [decodeWord, hg]
  exact hw.trans (hd w ((field_of_mask 0 8 h (by decide)).trans hnn))

end Sys2Proof.Machine
end

section
/-! PROOFS. FX0A (44_timers_keys.md R356). -/

namespace Sys2Proof.Machine

theorem decodes_ldVxK : Decodes 0xF0FF 0xF00A (fun w => .ldVxK (xOf w)) :=
  decodes_groupF 0x0A (by decide) (by decide) fun w hnn => by simp [decodeGroupF, hnn]

theorem exec_ldVxK_of_key {s : State} {k : Key} (h : firstKeyDown s.key = some k) (x : Reg) :
    exec (.ldVxK x) s = .next (s.setReg x (BitVec.ofNat 8 k.val)) := by
  simp only [exec, execLdVxK, h]

theorem exec_ldVxK_of_none {s : State} (h : firstKeyDown s.key = none) (x : Reg) :
    exec (.ldVxK x) s = .next s.rewind := by
  simp only [exec, execLdVxK, h]

/-- A key's index fits a register. -/
theorem toNat_ofNat_key (k : Key) : (BitVec.ofNat 8 k.val).toNat = k.val :=
  (BitVec.toNat_ofNat _ _).trans (Nat.mod_eq_of_lt (k.isLt.trans (by decide)))

/-- Settles O38: the ascending search finds the least key down, whose index is one write to Vx; where it finds none the
instruction is `rewind()`. -/
theorem keyWaitTakesLeastKeyOrRewinds : Obligations.KeyWaitTakesLeastKeyOrRewinds := by
  refine ⟨decodes_ldVxK, fun x k s hk hl => ?_, fun x s hup => exec_ldVxK_of_none (firstKeyDown_eq_none hup) x⟩
  obtain ⟨v, he, hx, hr⟩ := exec_writes_reg (exec_ldVxK_of_key (firstKeyDown_eq_some hk hl) x)
  exact ⟨v, he, hx ▸ toNat_ofNat_key k, hr⟩

end Sys2Proof.Machine
end

section
/-! PROOFS. The rows of the opcode map that no section above has: each holds for all its words (30_encoding.md R129). -/

namespace Sys2Proof.Machine

theorem decodes_cls : Decodes 0xF0FF 0x00E0 (fun _ => .cls) := decodes_group0 (by decide) (by decide)
theorem decodes_ret : Decodes 0xF0FF 0x00EE (fun _ => .ret) := decodes_group0 (by decide) (by decide)
theorem decodes_scr : Decodes 0xF0FF 0x00FB (fun _ => .scr) := decodes_group0 (by decide) (by decide)
theorem decodes_scl : Decodes 0xF0FF 0x00FC (fun _ => .scl) := decodes_group0 (by decide) (by decide)
theorem decodes_exit : Decodes 0xF0FF 0x00FD (fun _ => .exit) := decodes_group0 (by decide) (by decide)
theorem decodes_low : Decodes 0xF0FF 0x00FE (fun _ => .low) := decodes_group0 (by decide) (by decide)
theorem decodes_high : Decodes 0xF0FF 0x00FF (fun _ => .high) := decodes_group0 (by decide) (by decide)

theorem decodes_scd : Decodes 0xF0F0 0x00C0 (fun w => .scd (nOf w).toNat) := by
  intro w h
  have hg : group w = 0 := field_of_mask 12 4 h (by decide)
  have hy : w.extractLsb' 4 4 = 0xC#4 := field_of_mask 4 4 h (by decide)
  simp [decodeWord_of_group0 hg, decodeGroup0, hy]

theorem decodes_call : Decodes 0xF000 0x2000 (fun w => .call (nnnOf w)) :=
  decodes_of_group 0x2 (by decide) fun w hg => by simp [decodeWord, hg]

theorem decodes_seReg : Decodes 0xF000 0x5000 (fun w => .seReg (xOf w) (yOf w)) :=
  decodes_of_group 0x5 (by decide) fun w hg => by simp [decodeWord, hg]

theorem decodes_sneReg : Decodes 0xF000 0x9000 (fun w => .sneReg (xOf w) (yOf w)) :=
  decodes_of_group 0x9 (by decide) fun w hg => by simp [decodeWord, hg]

theorem decodes_ldI : Decodes 0xF000 0xA000 (fun w => .ldI (nnnOf w)) :=
  decodes_of_group 0xA (by decide) fun w hg => by simp [decodeWord, hg]

theorem decodes_rnd : Decodes 0xF000 0xC000 (fun w => .rnd (xOf w) (nnOf w)) :=
  decodes_of_group 0xC (by decide) fun w hg => by simp [decodeWord, hg]

theorem decodes_drw : Decodes 0xF000 0xD000 (fun w => .drw (xOf w) (yOf w) (nOf w).toNat) :=
  decodes_of_group 0xD (by decide) fun w hg => by simp [decodeWord, hg]

theorem decodes_shr : Decodes 0xF00F 0x8006 (fun w => .shr (xOf w) (yOf w)) :=
  decodes_group8 0x6 (by decide) (by decide) fun w hn => by simp [decodeGroup8, hn]

theorem decodes_shl : Decodes 0xF00F 0x800E (fun w => .shl (xOf w) (yOf w)) :=
  decodes_group8 0xE (by decide) (by decide) fun w hn => by simp [decodeGroup8, hn]

/-- A row of group E holds for all its words once the low byte decides the secondary dispatch. -/
theorem decodes_groupE {v : Word} {f : Word → Instr} (nn : Byte) (hv : group v = 0xE) (hnn : nnOf v = nn)
    (hd : ∀ w, nnOf w = nn → decodeGroupE w = .ok (f w)) : Decodes 0xF0FF v f := by
  intro w h
  have hg : group w = 0xE := (field_of_mask 12 4 h (by decide)).trans hv
  have hw : decodeWord w = decodeGroupE w := by simp [decodeWord, hg]
  exact hw.trans (hd w ((field_of_mask 0 8 h (by decide)).trans hnn))

theorem decodes_skp : Decodes 0xF0FF 0xE09E (fun w => .skp (xOf w)) :=
  decodes_groupE 0x9E (by decide) (by decide) fun w hnn => by simp [decodeGroupE, hnn]

theorem decodes_sknp : Decodes 0xF0FF 0xE0A1 (fun w => .sknp (xOf w)) :=
  decodes_groupE 0xA1 (by decide) (by decide) fun w hnn => by simp [decodeGroupE, hnn]

theorem decodes_ldVxDT : Decodes 0xF0FF 0xF007 (fun w => .ldVxDT (xOf w)) :=
  decodes_groupF 0x07 (by decide) (by decide) fun w hnn => by simp [decodeGroupF, hnn]

theorem decodes_ldDT : Decodes 0xF0FF 0xF015 (fun w => .ldDT (xOf w)) :=
  decodes_groupF 0x15 (by decide) (by decide) fun w hnn => by simp [decodeGroupF, hnn]

theorem decodes_ldST : Decodes 0xF0FF 0xF018 (fun w => .ldST (xOf w)) :=
  decodes_groupF 0x18 (by decide) (by decide) fun w hnn => by simp [decodeGroupF, hnn]

theorem decodes_addI : Decodes 0xF0FF 0xF01E (fun w => .addI (xOf w)) :=
  decodes_groupF 0x1E (by decide) (by decide) fun w hnn => by simp [decodeGroupF, hnn]

theorem decodes_ldF : Decodes 0xF0FF 0xF029 (fun w => .ldF (xOf w)) :=
  decodes_groupF 0x29 (by decide) (by decide) fun w hnn => by simp [decodeGroupF, hnn]

theorem decodes_ldHF : Decodes 0xF0FF 0xF030 (fun w => .ldHF (xOf w)) :=
  decodes_groupF 0x30 (by decide) (by decide) fun w hnn => by simp [decodeGroupF, hnn]

theorem decodes_ldB : Decodes 0xF0FF 0xF033 (fun w => .ldB (xOf w)) :=
  decodes_groupF 0x33 (by decide) (by decide) fun w hnn => by simp [decodeGroupF, hnn]

theorem decodes_storeRegs : Decodes 0xF0FF 0xF055 (fun w => .storeRegs (xOf w)) :=
  decodes_groupF 0x55 (by decide) (by decide) fun w hnn => by simp [decodeGroupF, hnn]

theorem decodes_loadRegs : Decodes 0xF0FF 0xF065 (fun w => .loadRegs (xOf w)) :=
  decodes_groupF 0x65 (by decide) (by decide) fun w hnn => by simp [decodeGroupF, hnn]

theorem decodes_saveFlags : Decodes 0xF0FF 0xF075 (fun w => .saveFlags (xOf w)) :=
  decodes_groupF 0x75 (by decide) (by decide) fun w hnn => by simp [decodeGroupF, hnn]

theorem decodes_restoreFlags : Decodes 0xF0FF 0xF085 (fun w => .restoreFlags (xOf w)) :=
  decodes_groupF 0x85 (by decide) (by decide) fun w hnn => by simp [decodeGroupF, hnn]

end Sys2Proof.Machine
end

section
/-! PROOFS. Decoding what the encoder writes (30_encoding.md R129): the encoder's word lies in its own row of the
opcode map, the row decodes, and the fields of the word are the operands. -/

namespace Sys2Proof.Machine

open Sys2Proof.Laws

/-- The round trip of one instruction, from its row of the opcode map. -/
theorem Decodes.of_encode {i : Instr} {mask value : Word} {f : Word → Instr} (hd : Decodes mask value f)
    (hs : encode i &&& mask = value) (hf : f (encode i) = i) : decodeWord (encode i) = .ok i :=
  (hd (encode i) hs).trans (congrArg Except.ok hf)

/-- A count that fits its field is the field's value. -/
theorem toNat_nOf_packXYN {n : Nat} (hn : countOk n = true) (g : BitVec 4) (x y : Reg) :
    (nOf (packXYN g x y (BitVec.ofNat 4 n))).toNat = n := by
  rw [nOf_packXYN, BitVec.toNat_ofNat, Nat.mod_eq_of_lt (of_decide_eq_true hn)]

theorem xOf_yOf_packXYN (f : Reg → Reg → Instr) (g n : BitVec 4) (x y : Reg) :
    f (xOf (packXYN g x y n)) (yOf (packXYN g x y n)) = f x y := by
  rw [xOf_packXYN, yOf_packXYN]

theorem xOf_nnOf_packXNN (f : Reg → Byte → Instr) (g : BitVec 4) (x : Reg) (nn : Byte) :
    f (xOf (packXNN g x nn)) (nnOf (packXNN g x nn)) = f x nn := by
  rw [xOf_packXNN, nnOf_packXNN]

/-- Decoding inverts encoding, row by row. -/
theorem decodeWord_encode : ∀ i : Instr, i.wf = true → decodeWord (encode i) = .ok i
  | .cls, _ => decodes_cls.of_encode EncodingSelectsRow.cls rfl
  | .ret, _ => decodes_ret.of_encode EncodingSelectsRow.ret rfl
  | .scr, _ => decodes_scr.of_encode EncodingSelectsRow.scr rfl
  | .scl, _ => decodes_scl.of_encode EncodingSelectsRow.scl rfl
  | .exit, _ => decodes_exit.of_encode EncodingSelectsRow.exit rfl
  | .low, _ => decodes_low.of_encode EncodingSelectsRow.low rfl
  | .high, _ => decodes_high.of_encode EncodingSelectsRow.high rfl
  | .scd n, hn => decodes_scd.of_encode (EncodingSelectsRow.scd n) (congrArg Instr.scd (toNat_nOf_packXYN hn _ _ _))
  | .jp nnn, _ => decodes_jp.of_encode (EncodingSelectsRow.jp nnn) (congrArg Instr.jp (nnnOf_packNNN _ _))
  | .call nnn, _ => decodes_call.of_encode (EncodingSelectsRow.call nnn) (congrArg Instr.call (nnnOf_packNNN _ _))
  | .seImm x nn, _ => decodes_seImm.of_encode (EncodingSelectsRow.seImm x nn) (xOf_nnOf_packXNN .seImm _ _ _)
  | .sneImm x nn, _ => decodes_sneImm.of_encode (EncodingSelectsRow.sneImm x nn) (xOf_nnOf_packXNN .sneImm _ _ _)
  | .seReg x y, _ => decodes_seReg.of_encode (EncodingSelectsRow.seReg x y) (xOf_yOf_packXYN .seReg _ _ _ _)
  | .ldImm x nn, _ => decodes_ldImm.of_encode (EncodingSelectsRow.ldImm x nn) (xOf_nnOf_packXNN .ldImm _ _ _)
  | .addImm x nn, _ => decodes_addImm.of_encode (EncodingSelectsRow.addImm x nn) (xOf_nnOf_packXNN .addImm _ _ _)
  | .ldReg x y, _ => decodes_ldReg.of_encode (EncodingSelectsRow.ldReg x y) (xOf_yOf_packXYN .ldReg _ _ _ _)
  | .orReg x y, _ => decodes_orReg.of_encode (EncodingSelectsRow.orReg x y) (xOf_yOf_packXYN .orReg _ _ _ _)
  | .andReg x y, _ => decodes_andReg.of_encode (EncodingSelectsRow.andReg x y) (xOf_yOf_packXYN .andReg _ _ _ _)
  | .xorReg x y, _ => decodes_xorReg.of_encode (EncodingSelectsRow.xorReg x y) (xOf_yOf_packXYN .xorReg _ _ _ _)
  | .addReg x y, _ => decodes_addReg.of_encode (EncodingSelectsRow.addReg x y) (xOf_yOf_packXYN .addReg _ _ _ _)
  | .subReg x y, _ => decodes_subReg.of_encode (EncodingSelectsRow.subReg x y) (xOf_yOf_packXYN .subReg _ _ _ _)
  | .shr x y, _ => decodes_shr.of_encode (EncodingSelectsRow.shr x y) (xOf_yOf_packXYN .shr _ _ _ _)
  | .subn x y, _ => decodes_subn.of_encode (EncodingSelectsRow.subn x y) (xOf_yOf_packXYN .subn _ _ _ _)
  | .shl x y, _ => decodes_shl.of_encode (EncodingSelectsRow.shl x y) (xOf_yOf_packXYN .shl _ _ _ _)
  | .sneReg x y, _ => decodes_sneReg.of_encode (EncodingSelectsRow.sneReg x y) (xOf_yOf_packXYN .sneReg _ _ _ _)
  | .ldI nnn, _ => decodes_ldI.of_encode (EncodingSelectsRow.ldI nnn) (congrArg Instr.ldI (nnnOf_packNNN _ _))
  | .jpV0 nnn, _ => decodes_jpV0.of_encode (EncodingSelectsRow.jpV0 nnn) (congrArg Instr.jpV0 (nnnOf_packNNN _ _))
  | .rnd x nn, _ => decodes_rnd.of_encode (EncodingSelectsRow.rnd x nn) (xOf_nnOf_packXNN .rnd _ _ _)
  | .drw x y n, hn => decodes_drw.of_encode (EncodingSelectsRow.drw x y n)
      (by simp only [encode, xOf_packXYN, yOf_packXYN, toNat_nOf_packXYN hn])
  | .skp x, _ => decodes_skp.of_encode (EncodingSelectsRow.skp x) (congrArg Instr.skp (xOf_packXNN _ _ _))
  | .sknp x, _ => decodes_sknp.of_encode (EncodingSelectsRow.sknp x) (congrArg Instr.sknp (xOf_packXNN _ _ _))
  | .ldVxDT x, _ => decodes_ldVxDT.of_encode (EncodingSelectsRow.ldVxDT x) (congrArg Instr.ldVxDT (xOf_packXNN _ _ _))
  | .ldVxK x, _ => decodes_ldVxK.of_encode (EncodingSelectsRow.ldVxK x) (congrArg Instr.ldVxK (xOf_packXNN _ _ _))
  | .ldDT x, _ => decodes_ldDT.of_encode (EncodingSelectsRow.ldDT x) (congrArg Instr.ldDT (xOf_packXNN _ _ _))
  | .ldST x, _ => decodes_ldST.of_encode (EncodingSelectsRow.ldST x) (congrArg Instr.ldST (xOf_packXNN _ _ _))
  | .addI x, _ => decodes_addI.of_encode (EncodingSelectsRow.addI x) (congrArg Instr.addI (xOf_packXNN _ _ _))
  | .ldF x, _ => decodes_ldF.of_encode (EncodingSelectsRow.ldF x) (congrArg Instr.ldF (xOf_packXNN _ _ _))
  | .ldHF x, _ => decodes_ldHF.of_encode (EncodingSelectsRow.ldHF x) (congrArg Instr.ldHF (xOf_packXNN _ _ _))
  | .ldB x, _ => decodes_ldB.of_encode (EncodingSelectsRow.ldB x) (congrArg Instr.ldB (xOf_packXNN _ _ _))
  | .storeRegs x, _ => decodes_storeRegs.of_encode (EncodingSelectsRow.storeRegs x)
      (congrArg Instr.storeRegs (xOf_packXNN _ _ _))
  | .loadRegs x, _ => decodes_loadRegs.of_encode (EncodingSelectsRow.loadRegs x)
      (congrArg Instr.loadRegs (xOf_packXNN _ _ _))
  | .saveFlags x, _ => decodes_saveFlags.of_encode (EncodingSelectsRow.saveFlags x)
      (congrArg Instr.saveFlags (xOf_packXNN _ _ _))
  | .restoreFlags x, _ => decodes_restoreFlags.of_encode (EncodingSelectsRow.restoreFlags x)
      (congrArg Instr.restoreFlags (xOf_packXNN _ _ _))

/-- Settles O1: two bytes put together are the word they were cut from, and the word decodes by its row. -/
theorem decodeEncodeRoundTrip : Obligations.DecodeEncodeRoundTrip := by
  intro i rest hi
  simp only [decodeBytes, joinBytes_highByte_lowByte, decodeWord_encode i hi]

end Sys2Proof.Machine
end

section
/-! PROOFS. The dispatch and the opcode map are one decoder (30_encoding.md R129, R130). -/

namespace Sys2Proof.Machine

/-! Every row decodes. -/

theorem opcodeRowsGroup0_decode : ∀ r ∈ opcodeRowsGroup0, Decodes r.mask r.value r.build := by
  simp only [opcodeRowsGroup0, List.forall_mem_cons]
  exact ⟨decodes_cls, decodes_ret, decodes_scr, decodes_scl, decodes_exit, decodes_low, decodes_high, decodes_scd,
    List.forall_mem_nil _⟩

theorem opcodeRowsJumps_decode : ∀ r ∈ opcodeRowsJumps, Decodes r.mask r.value r.build := by
  simp only [opcodeRowsJumps, List.forall_mem_cons]
  exact ⟨decodes_jp, decodes_call, decodes_seImm, decodes_sneImm, decodes_seReg, decodes_ldImm, decodes_addImm,
    List.forall_mem_nil _⟩

theorem opcodeRowsGroup8_decode : ∀ r ∈ opcodeRowsGroup8, Decodes r.mask r.value r.build := by
  simp only [opcodeRowsGroup8, List.forall_mem_cons]
  exact ⟨decodes_ldReg, decodes_orReg, decodes_andReg, decodes_xorReg, decodes_addReg, decodes_subReg, decodes_shr,
    decodes_subn, decodes_shl, decodes_sneReg, List.forall_mem_nil _⟩

theorem opcodeRowsMiddle_decode : ∀ r ∈ opcodeRowsMiddle, Decodes r.mask r.value r.build := by
  simp only [opcodeRowsMiddle, List.forall_mem_cons]
  exact ⟨decodes_ldI, decodes_jpV0, decodes_rnd, decodes_drw, decodes_skp, decodes_sknp, List.forall_mem_nil _⟩

theorem opcodeRowsGroupF_decode : ∀ r ∈ opcodeRowsGroupF, Decodes r.mask r.value r.build := by
  simp only [opcodeRowsGroupF, List.forall_mem_cons]
  exact ⟨decodes_ldVxDT, decodes_ldVxK, decodes_ldDT, decodes_ldST, decodes_addI, decodes_ldF, decodes_ldHF,
    decodes_ldB, decodes_storeRegs, decodes_loadRegs, decodes_saveFlags, decodes_restoreFlags, List.forall_mem_nil _⟩

theorem opcodeMap_decodes : ∀ r ∈ opcodeMap, Decodes r.mask r.value r.build := by
  simp only [opcodeMap, List.forall_mem_append]
  exact ⟨⟨⟨⟨opcodeRowsGroup0_decode, opcodeRowsJumps_decode⟩, opcodeRowsGroup8_decode⟩, opcodeRowsMiddle_decode⟩,
    opcodeRowsGroupF_decode⟩

theorem selects_iff (r : OpcodeRow) (w : Word) : r.selects w = true ↔ w &&& r.mask = r.value := by
  simp [OpcodeRow.selects]

/-! Every word that decodes is selected by its instruction's row. -/

open Sys2Proof.Laws

theorem row_mem_opcodeMap (i : Instr) : ∃ r ∈ opcodeMap, (r.mask, r.value) = i.row := by
  have h : (opcodeMap.map fun r => (r.mask, r.value)).contains i.row = true := by cases i <;> rfl
  exact List.mem_map.1 (List.contains_iff_mem.1 h)

/-! A word is its fields put together. -/

theorem extractLsb'_append_next (w : Word) (k m n : Nat) :
    w.extractLsb' (k + n) m ++ w.extractLsb' k n = w.extractLsb' k (m + n) :=
  BitVec.extractLsb'_append_extractLsb'_eq_extractLsb' rfl

theorem packNNN_fields (w : Word) : packNNN (group w) (nnnOf w) = w :=
  (extractLsb'_append_next w 0 4 12).trans BitVec.extractLsb'_eq_self

theorem packXNN_fields (w : Word) : packXNN (group w) (xOf w) (nnOf w) = w :=
  (congrArg (· ++ nnOf w) (extractLsb'_append_next w 8 4 4)).trans
    ((extractLsb'_append_next w 0 8 8).trans BitVec.extractLsb'_eq_self)

theorem packXYN_fields (w : Word) : packXYN (group w) (xOf w) (yOf w) (nOf w) = w :=
  (congrArg (· ++ nOf w) ((congrArg (· ++ w.extractLsb' 4 4) (extractLsb'_append_next w 8 4 4)).trans
    (extractLsb'_append_next w 4 8 4))).trans
      ((extractLsb'_append_next w 0 12 4).trans BitVec.extractLsb'_eq_self)

theorem mask_of_group {w : Word} {g : BitVec 4} (hg : group w = g) : w &&& 0xF000 = packNNN g 0 := by
  conv_lhs => rw [← packNNN_fields w, hg]
  exact packNNN_maskG g (nnnOf w)

theorem mask_of_group_nOf {w : Word} {g n : BitVec 4} (hg : group w = g) (hn : nOf w = n) :
    w &&& 0xF00F = packXYN g 0 0 n := by
  conv_lhs => rw [← packXYN_fields w, hg, hn]
  exact packXYN_maskGN g n (xOf w) (yOf w)

theorem mask_of_group_nnOf {w : Word} {g : BitVec 4} {nn : Byte} (hg : group w = g) (hn : nnOf w = nn) :
    w &&& 0xF0FF = packXNN g 0 nn := by
  conv_lhs => rw [← packXNN_fields w, hg, hn]
  exact packXNN_maskGNN g (xOf w) nn

theorem mask_of_group_yOf {w : Word} {g : BitVec 4} {y : Reg} (hg : group w = g) (hy : yOf w = y) :
    w &&& 0xF0F0 = packXYN g 0 y 0 := by
  conv_lhs => rw [← packXYN_fields w, hg, hy]
  exact packXYN_maskGY g (nOf w) (xOf w) y

/-- One branch of a secondary dispatch: its instruction's row selects the word, or a later branch decides. -/
theorem ok_row_ite {w : Word} {i j : Instr} {c : Prop} [Decidable c] {e : Except Miss Instr}
    (hj : c → w &&& j.row.1 = j.row.2) (he : e = .ok i → w &&& i.row.1 = i.row.2) :
    (if c then .ok j else e) = .ok i → w &&& i.row.1 = i.row.2 := by
  split_ifs with hc
  · rintro ⟨⟩
    exact hj hc
  · exact he

theorem decodeGroup0_ok_row {w : Word} {i : Instr} (hg : group w = 0) :
    decodeGroup0 w = .ok i → w &&& i.row.1 = i.row.2 := by
  refine ok_row_ite (fun hy => mask_of_group_yOf hg (congrArg BitVec.toFin hy)) ?_
  iterate 7 refine ok_row_ite (mask_of_group_nnOf hg) ?_
  nofun

theorem decodeGroup8_ok_row {w : Word} {i : Instr} (hg : group w = 8) :
    decodeGroup8 w = .ok i → w &&& i.row.1 = i.row.2 := by
  iterate 9 refine ok_row_ite (mask_of_group_nOf hg) ?_
  nofun

theorem decodeGroupE_ok_row {w : Word} {i : Instr} (hg : group w = 0xE) :
    decodeGroupE w = .ok i → w &&& i.row.1 = i.row.2 := by
  iterate 2 refine ok_row_ite (mask_of_group_nnOf hg) ?_
  nofun

theorem decodeGroupF_ok_row {w : Word} {i : Instr} (hg : group w = 0xF) :
    decodeGroupF w = .ok i → w &&& i.row.1 = i.row.2 := by
  iterate 12 refine ok_row_ite (mask_of_group_nnOf hg) ?_
  nofun

theorem group_eq_ofNat {w : Word} {n : Nat} (hn : (group w).toNat = n) : group w = BitVec.ofNat 4 n := by
  rw [← hn, BitVec.ofNat_toNat, BitVec.setWidth_eq]

/-- A word that decodes is selected by the row of the instruction it decodes to. -/
theorem decodeWord_ok_row {w : Word} {i : Instr} (h : decodeWord w = .ok i) : w &&& i.row.1 = i.row.2 := by
  have hw : (group w).toNat < 16 := (group w).isLt
  generalize hn : (group w).toNat = n at hw
  have hg := group_eq_ofNat hn
  simp only [decodeWord, hn] at h
  interval_cases n
  -- The four groups with a secondary key, the last first so that the goals before it keep their numbers.
  on_goal 16 => exact decodeGroupF_ok_row hg h
  on_goal 15 => exact decodeGroupE_ok_row hg h
  on_goal 9 => exact decodeGroup8_ok_row hg h
  on_goal 1 => exact decodeGroup0_ok_row hg h
  all_goals
    cases h
    exact mask_of_group hg

theorem selected_of_decodes {w : Word} {i : Instr} (h : decodeWord w = .ok i) :
    ∃ r ∈ opcodeMap, r.selects w = true := by
  obtain ⟨r, hr, he⟩ := row_mem_opcodeMap i
  have hw := decodeWord_ok_row h
  rw [← he] at hw
  exact ⟨r, hr, (selects_iff r w).2 hw⟩

/-- A word decodes or is a miss. -/
theorem decodeWord_error_iff (w : Word) : (∃ m, decodeWord w = .error m) ↔ ¬∃ i, decodeWord w = .ok i := by
  cases decodeWord w <;> simp

theorem miss_iff_no_row (w : Word) :
    (∃ m, decodeWord w = .error m) ↔ ∀ r ∈ opcodeMap, r.selects w = false := by
  rw [decodeWord_error_iff]
  constructor
  · intro hm r hr
    by_contra hs
    exact hm ⟨_, opcodeMap_decodes r hr w ((selects_iff r w).1 (Bool.eq_true_of_not_eq_false hs))⟩
  · rintro hn ⟨i, hi⟩
    obtain ⟨r, hr, hs⟩ := selected_of_decodes hi
    exact absurd hs (by simp [hn r hr])

/-- Two rows whose values differ in a bit that both masks keep select no common word. -/
theorem rows_disjoint {r q : OpcodeRow} (h : r.value &&& q.mask ≠ q.value &&& r.mask) (w : Word) :
    ¬(r.selects w = true ∧ q.selects w = true) := by
  rw [selects_iff, selects_iff]
  rintro ⟨hr, hq⟩
  exact h (by rw [← hr, ← hq, BitVec.and_assoc, BitVec.and_comm r.mask, BitVec.and_assoc])

theorem opcodeMap_values_differ : opcodeMap.Pairwise fun r q => r.value &&& q.mask ≠ q.value &&& r.mask := by
  decide +kernel

/-- Settles O2: each row decodes, a word that decodes is selected by its instruction's row, and any two rows differ in
a bit that both examine. -/
theorem dispatchFollowsOpcodeMap : Obligations.DispatchFollowsOpcodeMap :=
  ⟨fun r hr w hs => opcodeMap_decodes r hr w ((selects_iff r w).1 hs), fun w hn => (miss_iff_no_row w).2 hn,
    opcodeMap_values_differ.imp rows_disjoint, rfl⟩

/-- Settles O4: the decoder evaluated on each of the nine words. -/
theorem sampleWordsDecode : Obligations.SampleWordsDecode := by
  refine ⟨?_, ?_, ?_, ?_, ?_, ?_, ?_, ?_, ?_⟩ <;> decide

end Sys2Proof.Machine
end

section
/-! PROOFS. The decode misses (30_encoding.md R130) by group and secondary key. -/

namespace Sys2Proof.Machine

open Sys2Proof.Laws

/-! A field of a word as the word shifted or masked. -/

theorem shiftRight_12 (w : Word) : w >>> 12 = (group w).setWidth 16 := by
  apply BitVec.eq_of_toNat_eq
  have hw : w.toNat < 65536 := w.isLt
  simp [group, Nat.shiftRight_eq_div_pow]
  omega

theorem and_0xFF (w : Word) : w &&& 0xFF = packXNN 0 0 (nnOf w) := by
  conv_lhs => rw [← packXNN_fields w]
  refine (packXNN_and _ _ _ 0x0#4 0x0#4 0xFF#8).trans ?_
  rw [BitVec.and_zero, BitVec.and_zero, show nnOf w &&& 0xFF#8 = nnOf w from BitVec.and_allOnes]; rfl

theorem and_0xF (w : Word) : w &&& 0xF = packXYN 0 0 0 (nOf w) := by
  conv_lhs => rw [← packXYN_fields w]
  refine (packXYN_and _ _ _ _ 0x0#4 0x0#4 0x0#4 0xF#4).trans ?_
  rw [BitVec.and_zero, BitVec.and_zero, BitVec.and_zero, nibble_and_ones]; rfl

theorem and_0xF0 (w : Word) : w &&& 0xF0 = packXYN 0 0 (yOf w) 0 := by
  conv_lhs => rw [← packXYN_fields w]
  refine (packXYN_and _ _ _ _ 0x0#4 0x0#4 0xF#4 0x0#4).trans ?_
  rw [BitVec.and_zero, BitVec.and_zero, BitVec.and_zero, nibble_and_ones]; rfl

/-- The low byte of a word among others, as words and as bytes. -/
theorem and_0xFF_mem (w : Word) (l : List Byte) : w &&& 0xFF ∈ l.map (packXNN 0 0) ↔ nnOf w ∈ l := by
  rw [and_0xFF]
  exact List.mem_map_of_injective (Function.LeftInverse.injective (nnOf_packXNN 0 0))

theorem and_0xF_mem (w : Word) (l : List (BitVec 4)) : w &&& 0xF ∈ l.map (packXYN 0 0 0) ↔ nOf w ∈ l := by
  rw [and_0xF]
  exact List.mem_map_of_injective (Function.LeftInverse.injective fun n => nOf_packXYN 0 n 0 0)

theorem and_0xF0_eq (w : Word) : w &&& 0xF0 = 0xC0 ↔ w.extractLsb' 4 4 = 0xC#4 := by
  have inj : Function.Injective fun y : Reg => packXYN 0 0 y 0 :=
    Function.LeftInverse.injective fun y => yOf_packXYN 0 0 0 y
  rw [and_0xF0]
  exact (inj.eq_iff (b := 0xC)).trans BitVec.toFin_inj

/-- One branch of a secondary dispatch misses where it is not taken and what follows it misses. -/
theorem exists_error_ite {j : Instr} {c : Prop} [Decidable c] {e : Except Miss Instr} :
    (∃ m, (if c then .ok j else e) = .error m) ↔ ¬c ∧ ∃ m, e = .error m := by
  split_ifs with hc <;> simp [hc]

theorem decodeGroup0_error_iff (w : Word) : (∃ m, decodeGroup0 w = .error m) ↔ ¬(w &&& 0xF0 = 0xC0) ∧
    w &&& 0xFF ∉ [0xE0#16, 0xEE#16, 0xFB#16, 0xFC#16, 0xFD#16, 0xFE#16, 0xFF#16] := by
  refine Iff.trans ?_ (and_congr (not_congr (and_0xF0_eq w)) (not_congr (and_0xFF_mem w
    [0xE0#8, 0xEE#8, 0xFB#8, 0xFC#8, 0xFD#8, 0xFE#8, 0xFF#8]))).symm
  simp only [decodeGroup0, exists_error_ite, List.mem_cons, List.not_mem_nil, not_or, exists_eq', not_false_eq_true,
    Except.error.injEq]

theorem decodeGroup8_error_iff (w : Word) : (∃ m, decodeGroup8 w = .error m) ↔
    w &&& 0xF ∈ [0x8#16, 0x9#16, 0xA#16, 0xB#16, 0xC#16, 0xD#16, 0xF#16] := by
  have other_keys : ∀ n : BitVec 4, n ∈ [0x8#4, 0x9#4, 0xA#4, 0xB#4, 0xC#4, 0xD#4, 0xF#4] ↔
      n ∉ [0x0#4, 0x1#4, 0x2#4, 0x3#4, 0x4#4, 0x5#4, 0x6#4, 0x7#4, 0xE#4] := by decide
  refine Iff.trans ?_ ((other_keys (nOf w)).symm.trans (and_0xF_mem w _).symm)
  simp only [decodeGroup8, exists_error_ite, List.mem_cons, List.not_mem_nil, not_or, exists_eq', not_false_eq_true,
    Except.error.injEq]

theorem decodeGroupE_error_iff (w : Word) :
    (∃ m, decodeGroupE w = .error m) ↔ w &&& 0xFF ∉ [0x9E#16, 0xA1#16] := by
  refine Iff.trans ?_ (not_congr (and_0xFF_mem w [0x9E#8, 0xA1#8]).symm)
  simp only [decodeGroupE, exists_error_ite, List.mem_cons, List.not_mem_nil, not_or, exists_eq', not_false_eq_true,
    Except.error.injEq]

theorem decodeGroupF_error_iff (w : Word) : (∃ m, decodeGroupF w = .error m) ↔
    w &&& 0xFF ∉ [0x07#16, 0x0A#16, 0x15#16, 0x18#16, 0x1E#16, 0x29#16, 0x30#16, 0x33#16,
      0x55#16, 0x65#16, 0x75#16, 0x85#16] := by
  refine Iff.trans ?_ (not_congr (and_0xFF_mem w
    [0x07#8, 0x0A#8, 0x15#8, 0x18#8, 0x1E#8, 0x29#8, 0x30#8, 0x33#8, 0x55#8, 0x65#8, 0x75#8, 0x85#8]).symm)
  simp only [decodeGroupF, exists_error_ite, List.mem_cons, List.not_mem_nil, not_or, exists_eq', not_false_eq_true,
    Except.error.injEq]

theorem miss_iff_missing_key (w : Word) : (∃ m, decodeWord w = .error m) ↔
    (w >>> 12 = 0x0 ∧ ¬(w &&& 0xF0 = 0xC0) ∧
      w &&& 0xFF ∉ [0xE0#16, 0xEE#16, 0xFB#16, 0xFC#16, 0xFD#16, 0xFE#16, 0xFF#16]) ∨
    (w >>> 12 = 0x8 ∧ w &&& 0xF ∈ [0x8#16, 0x9#16, 0xA#16, 0xB#16, 0xC#16, 0xD#16, 0xF#16]) ∨
    (w >>> 12 = 0xE ∧ w &&& 0xFF ∉ [0x9E#16, 0xA1#16]) ∨
    (w >>> 12 = 0xF ∧ w &&& 0xFF ∉ [0x07#16, 0x0A#16, 0x15#16, 0x18#16, 0x1E#16, 0x29#16, 0x30#16, 0x33#16,
      0x55#16, 0x65#16, 0x75#16, 0x85#16]) := by
  rw [shiftRight_12, ← decodeGroup0_error_iff, ← decodeGroup8_error_iff, ← decodeGroupE_error_iff,
    ← decodeGroupF_error_iff]
  have hw : (group w).toNat < 16 := (group w).isLt
  generalize hn : (group w).toNat = n at hw
  simp only [decodeWord, group_eq_ofNat hn]
  interval_cases n <;> simp

end Sys2Proof.Machine
end

section
/-! PROOFS. What an instruction can do, said once: the kinds of next state, each with the fields it changes. -/

namespace Sys2Proof.Machine

/-- The registers `v` are those of `s` but for the ones the instruction may write. -/
def KeepsOthers (s : State) (i : Instr) (v : Vector Byte 16) : Prop := ∀ r, writesReg i r = false → v.get r = s.v.get r

/-- The instructions that write I (10_state.md R38). -/
def WritesIndex (i : Instr) : Prop :=
  ∃ nnn x, i = .ldI nnn ∨ i = .addI x ∨ i = .ldF x ∨ i = .ldHF x ∨ i = .storeRegs x ∨ i = .loadRegs x

/-- The instructions that write the stack (10_state.md R39). -/
def WritesStack (i : Instr) : Prop := ∃ nnn, i = .call nnn ∨ i = .ret

/-- The instructions that write the framebuffer (10_state.md R46). -/
def WritesGrid (i : Instr) : Prop :=
  ∃ n x y, i = .cls ∨ i = .scd n ∨ i = .scr ∨ i = .scl ∨ i = .low ∨ i = .high ∨ i = .drw x y n

/-- The instruction faults in `s` with this code (60_exceptions.md R401 to R403). -/
def CanFault (s : State) (i : Instr) (code : FaultCode) : Prop :=
  (code = .stackOverflow ∧ s.sp.val = 16 ∧ ∃ nnn, i = .call nnn) ∨
  (code = .stackUnderflow ∧ s.sp.val = 0 ∧ i = .ret) ∨
  (code = .badKeyIndex ∧ ∃ x, 0xF < (s.v.get x).toNat ∧ (i = .skp x ∨ i = .sknp x))

/-- The next states an instruction can answer from `s`: whatever is not written is as in `s`. -/
inductive Effect (s : State) : Instr → State → Prop
  | registers {i v} (hv : KeepsOthers s i v) : Effect s i { s with v := v }
  | random {x nn v} (hv : KeepsOthers s (.rnd x nn) v) :
      Effect s (.rnd x nn) { s with v := v, randoms := s.randoms.tail, draws := s.draws + 1 }
  | goto {i} (p : Word) : Effect s i { s with pc := p }
  | index {i v} (a : Word) (hi : WritesIndex i) (hv : KeepsOthers s i v) : Effect s i { s with i := a, v := v }
  | store {i} (bs : List Byte) (a : Word) (hb : bs.length = bytesStored i) (ha : a ≠ s.i → WritesIndex i) :
      Effect s i { s with mem := (s.memWriteList (s.dataAddr 0) bs).mem, i := a }
  | delay (x : Reg) (b : Byte) : Effect s (.ldDT x) { s with dt := b }
  | sound (x : Reg) (b : Byte) : Effect s (.ldST x) { s with st := b }
  | flags (x : Reg) (uf : Vector Byte 16) : Effect s (.saveFlags x) { s with uf := uf }
  | grid {i v fb} (os : List Output) (hi : WritesGrid i) (hm : i ≠ .low ∧ i ≠ .high → fb.mode = s.fb.mode)
      (hw : s.fb.wf → fb.wf) (hv : KeepsOthers s i v) : Effect s i { s with fb := fb, v := v, outputs := os }
  | stack {i st sp} (p : Word) (hi : WritesStack i) : Effect s i { s with stack := st, sp := sp, pc := p }
  | fault {i code} (hf : CanFault s i code) :
      Effect s i { s with status := .faulted code, outputs := s.outputs ++ [s.faultReport code] }
  | halt : Effect s .exit { s with status := .halted, outputs := s.outputs ++ [.status .halted] }

section
variable {s : State} {i : Instr} {v : Vector Byte 16}

theorem KeepsOthers.refl : KeepsOthers s i s.v := fun _ _ => rfl

theorem KeepsOthers.set (h : KeepsOthers s i v) {x : Reg} (hx : writesReg i x = true) (b : Byte) :
    KeepsOthers s i (v.set x.val b) := by
  intro r hr
  have hne : r ≠ x := by rintro rfl; simp [hx] at hr
  rw [State.get_set_v, if_neg hne, h r hr]

theorem KeepsOthers.merge {x : Reg} (hx : ∀ r, writesReg i r = decide (r ≤ x)) (new : Fin 16 → Byte) :
    KeepsOthers s i (mergeRange x new s.v) := by
  intro r hr
  rw [mergeRange_get, if_neg (of_decide_eq_false ((hx r).symm.trans hr))]

end

section
variable (s : State) (x y : Reg) (b : Byte) (f : Bool)

/-! The operations that several instructions share. -/

theorem effect_setReg {i : Instr} (hx : writesReg i x = true) : Effect s i (s.setReg x b) :=
  .registers (KeepsOthers.refl.set hx b)

theorem effect_resultThenFlag {i : Instr} (hx : writesReg i x = true) (hf : writesReg i vf = true) :
    Effect s i (s.resultThenFlag x b f) :=
  .registers ((KeepsOthers.refl.set hx b).set hf (flagByte f))

theorem effect_flagThenResult {i : Instr} (hx : writesReg i x = true) (hf : writesReg i vf = true) :
    Effect s i (s.flagThenResult x b f) :=
  .registers ((KeepsOthers.refl.set hf (flagByte f)).set hx b)

theorem effect_skipIf {i : Instr} : Effect s i (s.skipIf f) := by
  obtain ⟨p, hp⟩ := s.skipIf_frame f
  exact hp ▸ .goto p

theorem effect_grid {i : Instr} (hi : WritesGrid i) (fb : Framebuffer) (hm : fb.mode = s.fb.mode)
    (hw : s.fb.wf → fb.wf) : Effect s i { s with fb := fb } :=
  .grid s.outputs hi (fun _ => hm) hw KeepsOthers.refl

theorem effect_setResolution {i : Instr} (m : Mode) (hi : i = .low ∨ i = .high) : Effect s i (s.setResolution m) := by
  have hg : WritesGrid i := ⟨0, 0, 0, by tauto⟩
  by_cases h : s.fb.mode = m
  · rw [s.setResolution_same m h]
    exact effect_grid s hg s.fb rfl id
  · rw [s.setResolution_change m h]
    exact .grid _ hg (by tauto) (fun _ => Framebuffer.reallocated_wf m) KeepsOthers.refl

theorem effect_callTo (nnn : Addr) (a : Word) : Effect s (.call nnn) (s.callTo a) := by
  by_cases h : s.sp.val < 16
  · rw [s.callTo_push a h]
    exact .stack _ ⟨nnn, .inl rfl⟩
  · have hf : s.sp.val = 16 := by omega
    rw [s.callTo_full a hf]
    exact .fault (.inl ⟨rfl, hf, nnn, rfl⟩)

theorem effect_returnFrom : Effect s .ret s.returnFrom := by
  by_cases h : s.sp.val = 0
  · rw [s.returnFrom_empty h]
    exact .fault (.inr (.inl ⟨rfl, h, rfl⟩))
  · rw [s.returnFrom_pop ⟨s.sp.val - 1, by omega⟩ (by simp only; omega)]
    exact .stack _ ⟨0, .inr rfl⟩

theorem effect_skipOnKey {i : Instr} (down : Bool) (hi : i = .skp x ∨ i = .sknp x) :
    Effect s i (s.skipOnKey x down) := by
  by_cases h : (s.reg x).toNat < 16
  · rw [s.skipOnKey_key x ⟨_, h⟩ down rfl]
    exact effect_skipIf s _
  · have hf : 0xF < (s.reg x).toNat := by omega
    rw [s.skipOnKey_bad x down hf]
    exact .fault (.inr (.inr ⟨rfl, x, hf, hi⟩))

theorem effect_ldVxK : ∃ t, exec (.ldVxK x) s = .next t ∧ Effect s (.ldVxK x) t := by
  cases h : firstKeyDown s.key with
  | some k => exact ⟨_, exec_ldVxK_of_key h x, effect_setReg s x _ (by simp [writesReg])⟩
  | none => exact ⟨_, exec_ldVxK_of_none h x, .goto _⟩

theorem effect_ldB : Effect s (.ldB x) (s.memWriteList (s.dataAddr 0) (bcdDigits (s.reg x))) := by
  rw [State.memWriteList_frame]
  exact .store _ s.i rfl fun h => absurd rfl h

theorem effect_storeRegs :
    Effect s (.storeRegs x) ((s.memWriteList (s.dataAddr 0) (s.rangeBytes x)).advanceI x) := by
  rw [State.memWriteList_frame]
  exact .store _ _ (s.rangeBytes_length x) fun _ => ⟨0, x, by simp⟩

theorem effect_setI {i : Instr} (a : Word) (hi : WritesIndex i) : Effect s i (s.setI a) :=
  .index a hi KeepsOthers.refl

end
/-- Everything an instruction can do, and that it answers a next state. -/
theorem exec_next_effect : ∀ (i : Instr) (s : State), ∃ t, exec i s = .next t ∧ Effect s i t
  | .cls, s => ⟨_, rfl, effect_grid s ⟨0, 0, 0, by simp⟩ _ rfl fun _ => s.fb.clear_wf⟩
  | .ret, s => ⟨_, rfl, effect_returnFrom s⟩
  | .scr, s => ⟨_, rfl, effect_grid s ⟨0, 0, 0, by simp⟩ _ (s.fb.scrolled_mode _ _) fun h => s.fb.scrollRight_wf h 4⟩
  | .scl, s => ⟨_, rfl, effect_grid s ⟨0, 0, 0, by simp⟩ _ (s.fb.scrolled_mode _ _) fun h => s.fb.scrollLeft_wf h 4⟩
  | .exit, s => ⟨_, rfl, .halt⟩
  | .low, s => ⟨_, rfl, effect_setResolution s .lo (.inl rfl)⟩
  | .high, s => ⟨_, rfl, effect_setResolution s .hi (.inr rfl)⟩
  | .scd n, s => ⟨_, rfl, effect_grid s ⟨n, 0, 0, by simp⟩ _ (s.fb.scrolled_mode _ _) fun h => s.fb.scrollDown_wf h n⟩
  | .jp _, s => ⟨_, rfl, .goto _⟩
  | .call nnn, s => ⟨_, rfl, effect_callTo s nnn _⟩
  | .seImm _ _, s => ⟨_, rfl, effect_skipIf s _⟩
  | .sneImm _ _, s => ⟨_, rfl, effect_skipIf s _⟩
  | .seReg _ _, s => ⟨_, rfl, effect_skipIf s _⟩
  | .sneReg _ _, s => ⟨_, rfl, effect_skipIf s _⟩
  | .ldImm x _, s => ⟨_, rfl, effect_setReg s x _ (by simp [writesReg])⟩
  | .addImm x _, s => ⟨_, rfl, effect_setReg s x _ (by simp [writesReg])⟩
  | .ldReg x _, s => ⟨_, rfl, effect_setReg s x _ (by simp [writesReg])⟩
  | .orReg x _, s => ⟨_, rfl, effect_setReg s x _ (by simp [writesReg])⟩
  | .andReg x _, s => ⟨_, rfl, effect_setReg s x _ (by simp [writesReg])⟩
  | .xorReg x _, s => ⟨_, rfl, effect_setReg s x _ (by simp [writesReg])⟩
  | .addReg x _, s => ⟨_, rfl, effect_resultThenFlag s x _ _ (by simp [writesReg]) (by simp [writesReg])⟩
  | .subReg x _, s => ⟨_, rfl, effect_resultThenFlag s x _ _ (by simp [writesReg]) (by simp [writesReg])⟩
  | .subn x _, s => ⟨_, rfl, effect_resultThenFlag s x _ _ (by simp [writesReg]) (by simp [writesReg])⟩
  | .shr x _, s => ⟨_, rfl, effect_flagThenResult s x _ _ (by simp [writesReg]) (by simp [writesReg])⟩
  | .shl x _, s => ⟨_, rfl, effect_flagThenResult s x _ _ (by simp [writesReg]) (by simp [writesReg])⟩
  | .ldI nnn, s => ⟨_, rfl, effect_setI s _ ⟨nnn, 0, by simp⟩⟩
  | .jpV0 _, s => ⟨_, rfl, .goto _⟩
  | .rnd _ _, s => ⟨_, rfl, .random (KeepsOthers.refl.set (by simp [writesReg]) _)⟩
  | .drw x y n, s => ⟨_, rfl, .grid _ ⟨n, x, y, by simp⟩ (fun _ => s.fb.toggleAll_mode _ _ _)
      (fun h => s.fb.toggleAll_wf h _ _ _) (KeepsOthers.refl.set (by simp [writesReg]) _)⟩
  | .skp x, s => ⟨_, rfl, effect_skipOnKey s x true (.inl rfl)⟩
  | .sknp x, s => ⟨_, rfl, effect_skipOnKey s x false (.inr rfl)⟩
  | .ldVxDT x, s => ⟨_, rfl, effect_setReg s x _ (by simp [writesReg])⟩
  | .ldVxK x, s => effect_ldVxK s x
  | .ldDT x, s => ⟨_, rfl, .delay x _⟩
  | .ldST x, s => ⟨_, rfl, .sound x _⟩
  | .addI x, s => ⟨_, rfl, .index _ ⟨0, x, by simp⟩ (KeepsOthers.refl.set (by simp [writesReg]) _)⟩
  | .ldF x, s => ⟨_, rfl, effect_setI s _ ⟨0, x, by simp⟩⟩
  | .ldHF x, s => ⟨_, rfl, effect_setI s _ ⟨0, x, by simp⟩⟩
  | .ldB x, s => ⟨_, rfl, effect_ldB s x⟩
  | .storeRegs x, s => ⟨_, rfl, effect_storeRegs s x⟩
  | .loadRegs x, s => ⟨_, rfl, .index _ ⟨0, x, by simp⟩ (KeepsOthers.merge (fun _ => rfl) _)⟩
  | .saveFlags x, s => ⟨_, rfl, .flags x _⟩
  | .restoreFlags _, s => ⟨_, rfl, .registers (KeepsOthers.merge (fun _ => rfl) _)⟩

theorem exec_effect {i : Instr} {s t : State} (h : exec i s = .next t) : Effect s i t := by
  obtain ⟨u, hu, he⟩ := exec_next_effect i s
  cases hu.symm.trans h
  exact he

end Sys2Proof.Machine
end

section
/-! PROOFS. What instructions leave alone, field by field (10_state.md R32 to R48, 20_memory.md R83). -/

namespace Sys2Proof.Machine

variable {s t : State} {i : Instr}

theorem Effect.reg (h : Effect s i t) {r : Reg} (hr : writesReg i r = false) : t.v.get r = s.v.get r := by
  cases h with
  | registers hv | random hv | index a hi hv | grid os hi hm hw hv => exact hv r hr
  | goto | store | delay | sound | flags | stack | fault | halt => rfl

/-- Settles O39: the kinds of next state that write registers keep those the instruction may not write. -/
theorem onlyNamedRegistersChange : Obligations.OnlyNamedRegistersChange :=
  fun _ _ _ _ h hr => (exec_effect h).reg hr

theorem bytesStored_le (i : Instr) : bytesStored i ≤ Config.memSize := by
  cases i <;> simp only [bytesStored, Config.memSize] <;> omega

/-- A list of bytes written leaves every address outside it. -/
theorem memRead_memWriteList_outside (hw : Memory.wf s.mem) (bs : List Byte) (hl : bs.length ≤ Config.memSize) {a : Nat}
    (ha : Outside s bs.length a) : (s.memWriteList (s.dataAddr 0) bs).memRead a = s.memRead a := by
  rw [s.memRead_memWriteList hw _ _ hl]
  refine List.getD_eq_default _ _ (Nat.le_of_not_lt fun hk => ha _ hk ?_)
  simp only [State.dataAddr, Config.memSize] at *
  omega

theorem Effect.memRead (h : Effect s i t) (hw : Memory.wf s.mem) {a : Nat} (ha : Outside s (bytesStored i) a) :
    t.memRead a = s.memRead a := by
  cases h with
  | store bs a' hb ha' =>
    exact memRead_memWriteList_outside hw bs (hb ▸ bytesStored_le i) (hb ▸ ha)
  | registers | random | goto | index | delay | sound | flags | grid | stack | fault | halt => rfl

/-- Settles O40: only the storing instructions write memory, and each a list of as many bytes as it stores. -/
theorem onlyStoredBytesChange : Obligations.OnlyStoredBytesChange :=
  fun _ _ _ hw h _ ha => (exec_effect h).memRead hw ha

theorem Effect.index_eq (h : Effect s i t) (hi : ¬WritesIndex i) : t.i = s.i := by
  cases h with
  | index a hw hv => exact absurd hw hi
  | store bs a hb ha => exact not_not.1 fun hne => hi (ha hne)
  | registers | random | goto | delay | sound | flags | grid | stack | fault | halt => rfl

theorem Effect.stack_eq (h : Effect s i t) (hi : ¬WritesStack i) : t.stack = s.stack ∧ t.sp = s.sp := by
  cases h with
  | stack p hw => exact absurd hw hi
  | registers | random | goto | index | store | delay | sound | flags | grid | fault | halt => exact ⟨rfl, rfl⟩

theorem Effect.grid_eq (h : Effect s i t) (hi : ¬WritesGrid i) : t.fb = s.fb := by
  cases h with
  | grid os hw hm hk hv => exact absurd hw hi
  | registers | random | goto | index | store | delay | sound | flags | stack | fault | halt => rfl

theorem Effect.mode_eq (h : Effect s i t) (hi : i ≠ .low ∧ i ≠ .high) : t.fb.mode = s.fb.mode := by
  cases h with
  | grid os hw hm hk hv => exact hm hi
  | registers | random | goto | index | store | delay | sound | flags | stack | fault | halt => rfl

theorem Effect.dt_eq (h : Effect s i t) (hi : ∀ x, i ≠ .ldDT x) : t.dt = s.dt := by
  cases h with
  | delay x b => exact absurd rfl (hi x)
  | registers | random | goto | index | store | sound | flags | grid | stack | fault | halt => rfl

theorem Effect.st_eq (h : Effect s i t) (hi : ∀ x, i ≠ .ldST x) : t.st = s.st := by
  cases h with
  | sound x b => exact absurd rfl (hi x)
  | registers | random | goto | index | store | delay | flags | grid | stack | fault | halt => rfl

theorem Effect.uf_eq (h : Effect s i t) (hi : ∀ x, i ≠ .saveFlags x) : t.uf = s.uf := by
  cases h with
  | flags x uf => exact absurd rfl (hi x)
  | registers | random | goto | index | store | delay | sound | grid | stack | fault | halt => rfl

theorem Effect.draws_eq (h : Effect s i t) (hi : ∀ x nn, i ≠ .rnd x nn) :
    t.randoms = s.randoms ∧ t.draws = s.draws := by
  cases h with
  | @random x nn v hv => exact absurd rfl (hi x nn)
  | registers | goto | index | store | delay | sound | flags | grid | stack | fault | halt => exact ⟨rfl, rfl⟩

/-- The four instructions that can fault. -/
theorem CanFault.instr {code : FaultCode} (h : CanFault s i code) :
    ∃ nnn x, i = .call nnn ∨ i = .ret ∨ i = .skp x ∨ i = .sknp x := by
  rcases h with ⟨-, -, nnn, hi⟩ | ⟨-, -, hi⟩ | ⟨-, x, -, hi⟩
  · exact ⟨nnn, 0, .inl hi⟩
  · exact ⟨0, 0, .inr (.inl hi)⟩
  · exact ⟨0, x, .inr (.inr hi)⟩

/-- STATUS changes only by a fault or by the halt. -/
theorem Effect.status_eq (h : Effect s i t) : t.status = s.status ∨ (i = .exit ∧ t.status = .halted) ∨
    ∃ code, CanFault s i code ∧
      t = { s with status := .faulted code, outputs := s.outputs ++ [s.faultReport code] } := by
  cases h with
  | halt => exact .inr (.inl ⟨rfl, rfl⟩)
  | fault hf => exact .inr (.inr ⟨_, hf, rfl⟩)
  | registers | random | goto | index | store | delay | sound | flags | grid | stack => exact .inl rfl

theorem Effect.frame (h : Effect s i t) : t.key = s.key ∧ t.acc = s.acc ∧ t.place = s.place ∧ t.turns = s.turns ∧
    t.resetQueued = s.resetQueued ∧ t.cancelRequested = s.cancelRequested ∧ t.readings = s.readings := by
  cases h <;> exact ⟨rfl, rfl, rfl, rfl, rfl, rfl, rfl⟩

/-- Settles O41: field by field from what an instruction can do. -/
theorem otherStateHasFewWriters : Obligations.OtherStateHasFewWriters := by
  intro i s t h
  have he := exec_effect h
  refine ⟨fun hi => he.index_eq ?_, fun hi => he.stack_eq ?_, he.dt_eq, he.st_eq, he.uf_eq, fun hi => he.grid_eq ?_,
    he.mode_eq, fun hi => ?_, he.draws_eq, he.frame⟩
  · rintro ⟨nnn, x, hw⟩
    have := hi nnn x
    tauto
  · rintro ⟨nnn, hw⟩
    have := hi nnn
    tauto
  · rintro ⟨n, x, y, hw⟩
    have := hi n x y
    tauto
  · rcases he.status_eq with hs | ⟨hx, -⟩ | ⟨code, hf, -⟩
    · exact hs
    · exact absurd hx (hi 0 0).1
    · obtain ⟨nnn, x, hx⟩ := hf.instr
      have := hi nnn x
      tauto

/-- Settles O43: a next state that is Faulted where the one before was Running is that of a fault. -/
theorem faultsArePreciseAndFew : Obligations.FaultsArePreciseAndFew := by
  intro i s t code hr h ht
  rcases (exec_effect h).status_eq with hs | ⟨-, hs⟩ | ⟨c, hf, rfl⟩
  · rw [hs, hr] at ht
    cases ht
  · rw [hs] at ht
    cases ht
  · cases ht
    exact ⟨rfl, hf⟩

end Sys2Proof.Machine
end

section
/-! PROOFS. The invariant (10_state.md R46, R48; 60_exceptions.md R424): each transition keeps it. -/

namespace Sys2Proof.Machine

/-! Times. -/

theorem ioPeriod_pos : 0 < Config.ioPeriod := by norm_num [Config.ioPeriod, Rat.mkRat_eq_div]

theorem reading_seconds_nonneg (r : Config.Reading) : 0 ≤ r.seconds := by
  rw [Config.Reading.seconds, Rat.mkRat_eq_div]
  positivity

/-! Instructions. -/

section
variable {s t : State} {i : Instr}

theorem Effect.mem_wf (h : Effect s i t) (hw : Memory.wf s.mem) : Memory.wf t.mem := by
  cases h with
  | store bs a hb ha => exact s.memWriteList_wf hw _ bs
  | registers | random | goto | index | delay | sound | flags | grid | stack | fault | halt => exact hw

theorem Effect.fb_wf (h : Effect s i t) (hw : s.fb.wf) : t.fb.wf := by
  cases h with
  | grid os hi hm hk hv => exact hk hw
  | registers | random | goto | index | store | delay | sound | flags | stack | fault | halt => exact hw

end

/-- After a CPU step the bookkeeping is in order whatever STATUS the step left. -/
theorem inv_afterCpuStep {t : State} (hm : Memory.wf t.mem) (hf : t.fb.wf) (h0 : 0 ≤ t.acc)
    (hP : t.acc < Config.ioPeriod) :
    t.afterCpuStep.Inv := by
  by_cases hr : t.status = .running
  · rw [t.afterCpuStep_running hr]
    exact ⟨hm, hf, h0, fun _ => ⟨hr, hP⟩, fun hn => absurd hr hn⟩
  · rw [t.afterCpuStep_stopped hr]
    exact ⟨hm, hf, h0, fun hn => absurd rfl hn, fun _ => ⟨hP, rfl⟩⟩

variable {s t : State}

theorem cpuStep_inv (h : s.Inv) (hp : s.place = .step) (hs : cpuStep s = .next t) : t.Inv := by
  obtain ⟨hm, hf, h0, hplace, -⟩ := h
  obtain ⟨-, hP⟩ := hplace (by simp [hp])
  cases hd : decodeWord (s.wordAt s.pc) with
  | ok i =>
    obtain ⟨u, hu⟩ := exec_completes i s.advance
    have he := exec_effect hu
    have hacc : u.acc = s.acc := he.frame.2.1
    cases (cpuStep_instr s u i hd hu).symm.trans hs
    exact inv_afterCpuStep (he.mem_wf hm) (he.fb_wf hf) (hacc ▸ h0) (hacc ▸ hP)
  | error m =>
    cases (cpuStep_miss s m hd).symm.trans hs
    exact inv_afterCpuStep hm hf h0 hP

theorem readClock_inv (h : s.Inv) (hr : s.status = .running) : s.readClock.Inv := by
  obtain ⟨hm, hf, h0, -, -⟩ := h
  exact ⟨hm, hf, add_nonneg h0 (reading_seconds_nonneg _), fun hn => absurd rfl hn, fun hn => absurd hr hn⟩

theorem catchUp_eq (s : State) : s.catchUp = { s with
    dt := countDown s.dt, st := countDown s.st, acc := s.acc - Config.ioPeriod, fb := { s.fb with dirty := false }
    outputs := s.outputs ++ (if s.st = 1 then [.toneElapsed] else []) ++
      (if s.fb.dirty then [.redraw s.fb.pixelBytes s.fb.mode.width s.fb.mode.height] else []) } := by
  rw [State.catchUp, State.ioTick_eq]

theorem catchUp_inv (h : s.Inv) (hr : s.status = .running) (hp : s.place = .top) (ha : Config.ioPeriod ≤ s.acc) :
    s.catchUp.Inv := by
  obtain ⟨hm, hf, -, -, -⟩ := h
  rw [catchUp_eq]
  exact ⟨hm, hf, sub_nonneg.2 ha, fun hn => absurd hp hn, fun hn => absurd hr hn⟩

theorem resetTo_inv (h : s.Inv) (hr : s.ResetTo t) : t.Inv := by
  obtain ⟨hm, -, -, -, hstop⟩ := h
  obtain ⟨fb, hlo, ⟨hw, -⟩, -, rfl⟩ := hr
  refine ⟨hm, hw, le_refl _, fun hn => absurd rfl hn, fun hn => ⟨ioPeriod_pos, (hstop fun hr => hn ?_).2⟩⟩
  simp only [hr, if_true]

theorem resetTo_running (hr : s.ResetTo t) (hs : s.status = .running) :
    t.status = .running ∧ t.acc = 0 ∧ t.turns = s.turns := by
  obtain ⟨fb, -, -, -, rfl⟩ := hr
  exact ⟨if_pos hs, rfl, rfl⟩

theorem beginIteration_inv (h : s.Inv) (hr : s.status = .running) (hp : s.place = .top)
    (ha : s.acc < Config.ioPeriod) : s.beginIteration.Inv := by
  cases hc : s.cancelRequested with
  | true =>
    obtain ⟨hm, hf, h0, -, -⟩ := h
    rw [s.beginIteration_cancel hc]
    exact ⟨hm, hf, h0, fun hn => absurd hp hn, fun _ => ⟨ha, rfl⟩⟩
  | false =>
    cases hq : s.resetQueued with
    | true =>
      have hR := s.reinitialise_ResetTo
      obtain ⟨hm, hf, h0, -, -⟩ := resetTo_inv h hR
      obtain ⟨hs, hz, -⟩ := resetTo_running hR hr
      rw [s.beginIteration_reset hc hq]
      exact ⟨hm, hf, h0, fun _ => ⟨hs, hz ▸ ioPeriod_pos⟩, fun hn => absurd hs hn⟩
    | false =>
      obtain ⟨hm, hf, h0, -, -⟩ := h
      rw [s.beginIteration_plain hc hq]
      exact ⟨hm, hf, h0, fun _ => ⟨hr, ha⟩, fun hn => absurd hr hn⟩

theorem coreTransition_inv (h : s.Inv) (hs : coreTransition s = .next t) : t.Inv := by
  by_cases hr : s.status = .running
  · cases hp : s.place
    case top =>
      rcases le_or_gt Config.ioPeriod s.acc with ha | ha
      · cases (coreTransition_tick s hr hp ha).symm.trans hs
        exact catchUp_inv h hr hp ha
      · cases (coreTransition_begin s hr hp ha).symm.trans hs
        exact beginIteration_inv h hr hp ha
    case step => exact cpuStep_inv h hp ((coreTransition_cpuStep s hr hp).symm.trans hs)
    case clock =>
      cases (coreTransition_clock s hr hp).symm.trans hs
      exact readClock_inv h hr
  · cases (coreTransition_stopped s hr).symm.trans hs
    exact h

/-! Host transactions. -/

theorem requestReset_inv (h : s.Inv) : s.requestReset.Inv := by
  unfold State.requestReset
  split_ifs with hr
  · exact h
  · exact resetTo_inv h s.reinitialise_ResetTo

theorem requestCancel_inv (h : s.Inv) : s.requestCancel.Inv := by
  unfold State.requestCancel
  split_ifs with hr
  · obtain ⟨hm, hf, h0, hplace, -⟩ := h
    exact ⟨hm, hf, h0, hplace, fun hn => absurd hr hn⟩
  · exact h

theorem start_inv (h : s.Inv) : s.start.Inv := by
  unfold State.start
  split_ifs with hi
  · obtain ⟨hm, hf, h0, hplace, -⟩ := h
    exact ⟨hm, hf, h0, fun hn => ⟨rfl, (hplace hn).2⟩, fun hn => absurd rfl hn⟩
  · exact h

theorem loadProgram_inv (h : s.Inv) (bytes : List Byte) : (s.loadProgram bytes).Inv := by
  unfold State.loadProgram
  split_ifs
  · obtain ⟨hm, hrest⟩ := h
    have hw := s.memWriteList_wf hm Config.progBase bytes
    rw [State.memWriteList_frame]
    exact ⟨hw, hrest⟩
  · exact h

theorem deliver_inv (h : s.Inv) {e : HostEvent} (hs : deliver e s = .next t) : t.Inv := by
  cases e with
  | keySet k down => cases hs; exact h
  | reset => cases hs; exact requestReset_inv h
  | cancel => cases hs; exact requestCancel_inv h
  | start => cases hs; exact start_inv h
  | load bytes =>
    simp only [deliver] at hs
    split_ifs at hs
    cases hs
    exact loadProgram_inv h bytes

/-- Settles O57: the schedule is no part of the invariant, and each transition of the core and of the host keeps it. -/
theorem everyStepKeepsInvariant : Obligations.EveryStepKeepsInvariant := by
  intro s t h hs
  rcases ht : s.turns with _ | ⟨_ | e, rest⟩
  · exact coreTransition_inv h ((step_of_no_turns s ht).symm.trans hs)
  · exact coreTransition_inv (s := { s with turns := rest }) h ((step_of_core_turn s rest ht).symm.trans hs)
  · exact deliver_inv (s := { s with turns := rest }) h ((step_of_host_turn s e rest ht).symm.trans hs)

/-- Settles O56: nothing is listed in memory, and the new grid has its mode's size. -/
theorem powerOnMeetsInvariant : Obligations.PowerOnMeetsInvariant :=
  ⟨⟨List.Pairwise.nil, by simp [State.reset]⟩, Framebuffer.reallocated_wf .lo, le_refl _, fun hn => absurd rfl hn,
    fun _ => ⟨ioPeriod_pos, rfl⟩⟩

end Sys2Proof.Machine
end

section
/-! PROOFS. 8XY6 and 8XYE (42_alu.md R260, R262), and CXNN (R263). -/

namespace Sys2Proof.Machine

theorem exec_shr (x y : Reg) (s : State) :
    exec (.shr x y) s = .next (s.flagThenResult x (s.v.get y >>> 1) (lowBitOut (s.v.get y))) := rfl

theorem exec_shl (x y : Reg) (s : State) :
    exec (.shl x y) s = .next (s.flagThenResult x (s.v.get y <<< 1) (highBitOut (s.v.get y))) := rfl

/-- An instruction that writes the flag `f` to VF and then `b` to Vx: where Vx is VF, the result stays. -/
theorem exec_writes_flag_then_result {i : Instr} {s : State} {x : Reg} {b : Byte} {f : Bool}
    (h : exec i s = .next (s.flagThenResult x b f)) :
    ∃ v, exec i s = .next { s with v := v } ∧ v.get x = b ∧ (x ≠ vf → v.get vf = flagByte f) ∧
      ∀ r, r ≠ x → r ≠ vf → v.get r = s.v.get r :=
  ⟨(s.v.set vf (flagByte f)).set x b, h, by simp, fun hx => by simp [Ne.symm hx], fun r hr hf => by simp [hr, hf]⟩

theorem flagByte_lowBitOut_toNat (b : Byte) : (flagByte (lowBitOut b)).toNat = b.toNat % 2 := by
  have h : lowBitOut b = decide (b.toNat % 2 = 1) := by
    rw [lowBitOut, BitVec.getLsbD, Nat.testBit_zero]
  rw [h, flagByte]
  split_ifs <;> simp_all

theorem flagByte_highBitOut_toNat (b : Byte) : (flagByte (highBitOut b)).toNat = b.toNat / 128 := by
  have hb : b.toNat < 256 := b.isLt
  have h : highBitOut b = decide (b.toNat / 128 % 2 = 1) := by
    rw [highBitOut, BitVec.getLsbD, Nat.testBit_eq_decide_div_mod_eq]
  rw [h, flagByte]
  split_ifs <;> simp_all <;> omega

/-- Settles O11: the flag of Vy is written first and the shifted Vy second. -/
theorem shiftsReadVyAndWriteResultLast : Obligations.ShiftsReadVyAndWriteResultLast := by
  refine ⟨decodes_shr, decodes_shl, fun x y s => ?_, fun x y s => ?_⟩
  · obtain ⟨v, he, hx, hf, hr⟩ := exec_writes_flag_then_result (exec_shr x y s)
    refine ⟨v, he, ?_, fun h => hf h ▸ flagByte_lowBitOut_toNat _, hr⟩
    rw [hx, BitVec.toNat_ushiftRight, Nat.shiftRight_eq_div_pow, pow_one]
  · obtain ⟨v, he, hx, hf, hr⟩ := exec_writes_flag_then_result (exec_shl x y s)
    refine ⟨v, he, ?_, fun h => hf h ▸ flagByte_highBitOut_toNat _, hr⟩
    rw [hx, BitVec.toNat_shiftLeft, Nat.shiftLeft_eq, pow_one]

theorem exec_rnd (x : Reg) (nn : Byte) (s : State) :
    exec (.rnd x nn) s = .next (s.afterRandom.setReg x (s.randomByte &&& nn)) := rfl

theorem randomByte_of_supplied {s : State} {r : Byte} {rest : List Byte} (h : s.randoms = r :: rest) :
    s.randomByte = r := by
  rw [State.randomByte, h, List.headD_cons]

/-- Settles O12: the byte drawn is masked into Vx and the draw is used up. -/
theorem randomByteIsMasked : Obligations.RandomByteIsMasked := by
  refine ⟨decodes_rnd, fun x nn s => ⟨s.randomByte, s.v.set x.val (s.randomByte &&& nn), exec_rnd x nn s,
    by simp, fun q hq => by simp [hq]⟩, fun x nn r rest s h => ?_⟩
  rw [exec_rnd, randomByte_of_supplied h]
  simp only [State.setReg, State.afterRandom, h, List.tail_cons]

end Sys2Proof.Machine
end

section
/-! PROOFS. 5XY_ and 9XY_ (41_control.md R207, R208). -/

namespace Sys2Proof.Machine

theorem exec_seReg (x y : Reg) (s : State) :
    exec (.seReg x y) s = .next (s.skipIf (s.v.get x == s.v.get y)) := rfl

theorem exec_sneReg (x y : Reg) (s : State) :
    exec (.sneReg x y) s = .next (s.skipIf (s.v.get x != s.v.get y)) := rfl

/-- Settles O15: the rows examine the top nibble only, and each is a skip on the comparison of Vx with Vy. -/
theorem registerSkipsAdvancePc : Obligations.RegisterSkipsAdvancePc := by
  refine ⟨decodes_seReg, decodes_sneReg, fun x y s => ?_, fun x y s => ?_⟩
  · rw [exec_seReg, State.skipIf_beq]
  · rw [exec_sneReg, State.skipIf_bne]

end Sys2Proof.Machine
end

section
/-! PROOFS. 2NNN and 00EE (41_control.md R201, R204). -/

namespace Sys2Proof.Machine

theorem exec_call (nnn : Addr) (s : State) : exec (.call nnn) s = .next (s.callTo (zextAddr nnn)) := rfl

theorem exec_ret (s : State) : exec .ret s = .next s.returnFrom := rfl

theorem toNat_zextAddr_and_0xFFF (nnn : Addr) : (zextAddr nnn &&& 0xFFF).toNat = nnn.toNat := by
  rw [toNat_and_0xFFF, zextAddr_toNat, Nat.mod_eq_of_lt nnn.isLt]

/-- Reading an entry after a write, for the stack and the keys (for registers it is `State.get_set_v`). -/
theorem get_set_entry {α : Type} (v : Vector α 16) (n : Nat) (hn : n < 16) (a : α) (k : Fin 16) :
    (v.set n a).get k = if k.val = n then a else v.get k := by
  simp only [Vector.get_eq_getElem, Vector.getElem_set, eq_comm (a := n)]

/-- Settles O16: with room the advanced PC is the next entry and the target the masked immediate; with none, the call
raises. -/
theorem callPushesOrOverflows : Obligations.CallPushesOrOverflows := by
  refine ⟨decodes_call, fun nnn s h => ⟨_, _, _, (exec_call nnn s).trans (congrArg _ (s.callTo_push _ h)), rfl,
    toNat_zextAddr_and_0xFFF nnn, fun k hk => ?_, fun k hk => ?_⟩,
    fun nnn s h => (exec_call nnn s).trans (congrArg _ (s.callTo_full _ h))⟩
  · rw [get_set_entry, if_pos hk]
  · rw [get_set_entry, if_neg hk]

/-- Settles O17: with an entry the return masks it into PC; with none, it raises. -/
theorem returnPopsOrUnderflows : Obligations.ReturnPopsOrUnderflows :=
  ⟨decodes_ret, fun s k h => ⟨_, _, (exec_ret s).trans (congrArg _ (s.returnFrom_pop k h)), rfl, toNat_and_0xFFF _⟩,
    fun s h => (exec_ret s).trans (congrArg _ (s.returnFrom_empty h))⟩

/-- Settles O18: the entry the call pushes is the one the return pops. -/
theorem callThenReturnResumes : Obligations.CallThenReturnResumes := by
  intro nnn s t u hsp hc hr
  rw [exec_call, s.callTo_push _ hsp] at hc
  cases hc
  rw [exec_ret, State.returnFrom_pop _ ⟨s.sp.val, hsp⟩ rfl] at hr
  cases hr
  refine ⟨?_, rfl, fun k hk => ?_⟩
  · rw [toNat_and_0xFFF, get_set_entry, if_pos rfl]
  · exact (get_set_entry _ _ hsp _ k).trans (if_neg (Nat.ne_of_lt hk))

end Sys2Proof.Machine
end

section
/-! PROOFS. EX9E and EXA1 (44_timers_keys.md R350 to R352), and the timer transfers (R353 to R355). -/

namespace Sys2Proof.Machine

theorem exec_skp (x : Reg) (s : State) : exec (.skp x) s = .next (s.skipOnKey x true) := rfl

theorem exec_sknp (x : Reg) (s : State) : exec (.sknp x) s = .next (s.skipOnKey x false) := rfl

/-- Settles O37: on a key there is each is a skip on its flag, and above 0xF each raises. -/
theorem keySkipsOrBadIndex : Obligations.KeySkipsOrBadIndex := by
  refine ⟨decodes_skp, decodes_sknp, fun x k s h => ⟨?_, ?_⟩, fun x s h => ⟨s.raise .badKeyIndex, ?_, ?_, rfl⟩⟩
  · rw [exec_skp, s.skipOnKey_key x k true h, State.skipIf_eq, beq_true]
  · rw [exec_sknp, s.skipOnKey_key x k false h, State.skipIf_eq]
    cases s.key.get k <;> rfl
  · rw [exec_skp, s.skipOnKey_bad x true h]
  · rw [exec_sknp, s.skipOnKey_bad x false h]

theorem exec_ldVxDT (x : Reg) (s : State) : exec (.ldVxDT x) s = .next (s.setReg x s.dt) := rfl

theorem exec_ldDT (x : Reg) (s : State) : exec (.ldDT x) s = .next { s with dt := s.v.get x } := rfl

theorem exec_ldST (x : Reg) (s : State) : exec (.ldST x) s = .next { s with st := s.v.get x } := rfl

/-- Settles O36: one write each, to Vx or to a timer. -/
theorem timerTransfers : Obligations.TimerTransfers :=
  ⟨decodes_ldVxDT, decodes_ldDT, decodes_ldST, fun x s => exec_writes_reg (exec_ldVxDT x s), exec_ldDT, exec_ldST⟩

end Sys2Proof.Machine
end

section
/-! PROOFS. The address register (43_index_memory.md R301 to R304). -/

namespace Sys2Proof.Machine

theorem exec_ldI (nnn : Addr) (s : State) : exec (.ldI nnn) s = .next { s with i := zextAddr nnn } := rfl

theorem exec_ldF (x : Reg) (s : State) : exec (.ldF x) s = .next { s with i := glyphAddr 5 (s.v.get x) } := rfl

theorem exec_ldHF (x : Reg) (s : State) : exec (.ldHF x) s = .next { s with i := glyphAddr 10 (s.v.get x) } := rfl

theorem exec_addI (x : Reg) (s : State) : exec (.addI x) s =
    .next ((s.setI (s.i + zextByte (s.v.get x))).setFlag (pastTop s.i (s.v.get x))) := rfl

/-- A glyph address of at most 10 bytes a glyph never wraps. -/
theorem glyphAddr_toNat {size : Nat} (h : size ≤ 10) (digit : Byte) :
    (glyphAddr size digit).toNat = digit.toNat * size := by
  have hd : digit.toNat < 256 := digit.isLt
  have hm : digit.toNat * size ≤ 255 * 10 := Nat.mul_le_mul (by omega) h
  rw [glyphAddr, BitVec.toNat_ofNat, Nat.mod_eq_of_lt (by omega)]

/-- Settles O27: the immediate zero-extended, and the two glyph addresses. -/
theorem addressRegisterLoads : Obligations.AddressRegisterLoads :=
  ⟨decodes_ldI, decodes_ldF, decodes_ldHF, fun nnn s => ⟨_, exec_ldI nnn s, zextAddr_toNat nnn⟩,
    fun x s => ⟨_, exec_ldF x s, glyphAddr_toNat (by decide) _⟩,
    fun x s => ⟨_, exec_ldHF x s, glyphAddr_toNat (by decide) _⟩⟩

theorem flagByte_pastTop (i : Word) (b : Byte) :
    flagByte (pastTop i b) = if i.toNat + b.toNat > 0xFFF then 1 else 0 := by
  simp only [flagByte, pastTop, decide_eq_true_eq]

/-- Settles O28: I is written first, and the flag of the exact sum second. -/
theorem addToIndexSetsRangeFlag : Obligations.AddToIndexSetsRangeFlag := by
  refine ⟨decodes_addI, fun x s => ⟨_, s.v.set vf.val (flagByte (pastTop s.i (s.v.get x))), exec_addI x s, ?_, ?_, ?_⟩⟩
  · exact (BitVec.toNat_add _ _).trans (by rw [zextByte_toNat])
  · rw [State.get_set_v, if_pos rfl, flagByte_pastTop]
  · intro r hr
    rw [State.get_set_v, if_neg hr]

end Sys2Proof.Machine
end

section
/-! PROOFS. The memory transfers FX33, FX55 and FX65 (43_index_memory.md R305 to R307). -/

namespace Sys2Proof.Machine

/-- A list of bytes written is read back from where it was written on. -/
theorem memRead_memWriteList_inside {s : State} (hw : Memory.wf s.mem) (a : Nat) (bs : List Byte)
    (hl : bs.length ≤ Config.memSize) (k : Nat) (hk : k < bs.length) :
    (s.memWriteList a bs).memRead (a + k) = bs[k] := by
  have hidx : ((a + k) % 4096 + 4096 - a % 4096) % 4096 = k := by
    simp only [Config.memSize] at hl
    omega
  rw [s.memRead_memWriteList hw a bs hl]
  exact (congrArg (bs.getD · _) hidx).trans (List.getD_eq_getElem bs _ hk)

theorem exec_ldB (x : Reg) (s : State) :
    exec (.ldB x) s = .next { s with mem := (s.memWriteList (s.dataAddr 0) (bcdDigits (s.v.get x))).mem } :=
  congrArg Host.Outcome.next (s.memWriteList_frame _ _)

theorem bcdDigits_length (b : Byte) : (bcdDigits b).length = 3 := rfl

/-- Settles O29: the three digits are the list of bytes stored. -/
theorem bcdStoresThreeDigits : Obligations.BcdStoresThreeDigits := by
  refine ⟨decodes_ldB, fun x s hw => ⟨_, exec_ldB x s, s.memWriteList_wf hw _ _, ?_, ?_, ?_, ?_⟩⟩
  all_goals
    have hb : (s.v.get x).toNat < 256 := (s.v.get x).isLt
    have hl : (bcdDigits (s.v.get x)).length ≤ Config.memSize := by rw [bcdDigits_length]; decide
    have read := memRead_memWriteList_inside hw (s.dataAddr 0) _ hl
  · exact (congrArg BitVec.toNat (read 0 (by rw [bcdDigits_length]; decide))).trans (Nat.mod_eq_of_lt (by omega))
  · exact (congrArg BitVec.toNat (read 1 (by rw [bcdDigits_length]; decide))).trans (Nat.mod_eq_of_lt (by omega))
  · exact (congrArg BitVec.toNat (read 2 (by rw [bcdDigits_length]; decide))).trans (Nat.mod_eq_of_lt (by omega))
  · exact fun a ha => memRead_memWriteList_outside hw _ hl ha

theorem exec_storeRegs (x : Reg) (s : State) : exec (.storeRegs x) s = .next { s with
    mem := (s.memWriteList (s.dataAddr 0) (s.rangeBytes x)).mem, i := s.i + BitVec.ofNat 16 (x.val + 1) } := by
  show Host.Outcome.next ((s.memWriteList (s.dataAddr 0) (s.rangeBytes x)).advanceI x) = _
  rw [State.memWriteList_frame]
  rfl

theorem exec_loadRegs (x : Reg) (s : State) : exec (.loadRegs x) s = .next { s with
    v := mergeRange x (fun k => s.memRead (s.dataAddr k.val)) s.v, i := s.i + BitVec.ofNat 16 (x.val + 1) } := rfl

theorem rangeBytes_length_le (s : State) (x : Reg) : (s.rangeBytes x).length ≤ Config.memSize := by
  rw [s.rangeBytes_length]
  exact Nat.le_trans x.isLt (by decide)

/-- What FX55 stores, read back. -/
theorem memRead_rangeBytes {s : State} (hw : Memory.wf s.mem) {x k : Reg} (hk : k ≤ x) :
    (s.memWriteList (s.dataAddr 0) (s.rangeBytes x)).memRead (s.dataAddr k.val) = s.v.get k := by
  have hlt : k.val < (s.rangeBytes x).length := by
    rw [s.rangeBytes_length]
    exact Nat.lt_succ_of_le hk
  refine (memRead_memWriteList_inside hw _ _ (rangeBytes_length_le s x) k.val hlt).trans ?_
  rw [← List.getD_eq_getElem _ 0 hlt, s.rangeBytes_getD x k hk]

/-- I past a transfer of V0..Vx. -/
theorem toNat_add_transfer (i : Word) (x : Reg) :
    (i + BitVec.ofNat 16 (x.val + 1)).toNat = (i.toNat + x.val + 1) % 65536 := by
  rw [BitVec.toNat_add, BitVec.toNat_ofNat]
  omega

/-- Settles O30: V0..Vx are the list of bytes stored. -/
theorem storeRegistersWritesRange : Obligations.StoreRegistersWritesRange := by
  refine ⟨decodes_storeRegs, fun x s hw => ⟨_, _, exec_storeRegs x s, s.memWriteList_wf hw _ _,
    toNat_add_transfer s.i x, fun k hk => memRead_rangeBytes hw hk, fun a ha => ?_⟩⟩
  exact memRead_memWriteList_outside hw _ (rangeBytes_length_le s x) (s.rangeBytes_length x ▸ ha)

/-- Settles O31: the range is merged into the registers. -/
theorem loadRegistersReadsRange : Obligations.LoadRegistersReadsRange := by
  refine ⟨decodes_loadRegs, fun x s => ⟨_, _, exec_loadRegs x s, toNat_add_transfer s.i x,
    fun k hk => ?_, fun k hk => ?_⟩⟩
  · rw [mergeRange_get, if_pos hk]
  · rw [mergeRange_get, if_neg (not_le.2 hk)]

/-- What is read depends on memory alone. -/
theorem memRead_of_mem_eq {s t : State} (h : s.mem = t.mem) (a : Nat) : s.memRead a = t.memRead a := by
  rw [State.memRead, State.memRead, h]

/-- Two addresses equal modulo 4096 read the same byte. -/
theorem memRead_congr (s : State) {a b : Nat} (h : a % 4096 = b % 4096) : s.memRead a = s.memRead b := by
  rw [← s.memRead_mod a, ← s.memRead_mod b]
  exact congrArg s.memRead h

/-- Settles O32: the two bytes at PC are the first two bytes stored. -/
theorem storeIsSeenByNextFetch : Obligations.StoreIsSeenByNextFetch := by
  intro x s t hw hx ha h
  rw [exec_storeRegs] at h
  cases h
  have stored : ∀ k : Reg, k ≤ x → ∀ a, a % 4096 = (s.i.toNat + k.val) % 4096 →
      (s.memWriteList (s.dataAddr 0) (s.rangeBytes x)).memRead a = s.v.get k :=
    fun k hk a e => (memRead_congr _ e).trans (memRead_rangeBytes hw hk)
  refine congrArg₂ joinBytes (stored 0 (Fin.zero_le x) s.pc.toNat ?_) (stored 1 hx (s.pc.toNat + 1) ?_)
  · simpa using ha.symm
  · rw [Nat.add_mod, ← ha, ← Nat.add_mod]
    rfl

/-- Settles O33: FX65 reads the addresses FX55 wrote, and writes no memory. -/
theorem storeThenLoadRoundTrips : Obligations.StoreThenLoadRoundTrips := by
  intro x s t u v hw hs hl
  rw [exec_storeRegs] at hs
  cases hs
  rw [exec_loadRegs] at hl
  cases hl
  refine ⟨fun k hk => ?_, rfl, memRead_of_mem_eq rfl⟩
  rw [mergeRange_get, if_pos hk]
  exact memRead_rangeBytes hw hk

end Sys2Proof.Machine
end

section
/-! PROOFS. The user flags FX75 and FX85 (43_index_memory.md R308, R309). -/

namespace Sys2Proof.Machine

theorem exec_saveFlags (x : Reg) (s : State) :
    exec (.saveFlags x) s = .next { s with uf := mergeRange x s.v.get s.uf } := rfl

theorem exec_restoreFlags (x : Reg) (s : State) :
    exec (.restoreFlags x) s = .next { s with v := mergeRange x s.uf.get s.v } := rfl

/-- The merge of a range, inside it and above it. -/
theorem mergeRange_spec (x : Reg) (new : Fin 16 → Byte) (old : Vector Byte 16) :
    (∀ k : Reg, k ≤ x → (mergeRange x new old).get k = new k) ∧
    ∀ k : Reg, x < k → (mergeRange x new old).get k = old.get k :=
  ⟨fun k hk => by rw [mergeRange_get, if_pos hk], fun k hk => by rw [mergeRange_get, if_neg (not_le.2 hk)]⟩

/-- Settles O34: each merges a range, of the registers or of the user flags. -/
theorem userFlagsSaveAndRestore : Obligations.UserFlagsSaveAndRestore :=
  ⟨decodes_saveFlags, decodes_restoreFlags, fun x s => ⟨_, exec_saveFlags x s, mergeRange_spec x _ _⟩,
    fun x s => ⟨_, exec_restoreFlags x s, mergeRange_spec x _ _⟩⟩

end Sys2Proof.Machine
end

section
/-! PROOFS. 00FE and 00FF (40_display.md R164, R165). -/

namespace Sys2Proof.Machine

theorem exec_low (s : State) : exec .low s = .next (s.setResolution .lo) := rfl

theorem exec_high (s : State) : exec .high s = .next (s.setResolution .hi) := rfl

/-- A switch that changes the mode: a blank grid of the new mode and one notice. -/
theorem setResolution_reallocates {i : Instr} {s : State} {m : Mode} (h : exec i s = .next (s.setResolution m))
    (hm : s.fb.mode ≠ m) : ∃ fb : Framebuffer,
      exec i s = .next { s with fb := fb, outputs := s.outputs ++ [.resolutionChanged m] } ∧
      fb.mode = m ∧ fb.AllOff ∧ fb.dirty = true :=
  ⟨Framebuffer.reallocated m, h.trans (congrArg _ (s.setResolution_change m hm)), rfl, Framebuffer.blank_AllOff m true,
    rfl⟩

/-- Settles O21: in the mode named the switch is no change, and in the other it reallocates. -/
theorem resolutionSwitchReallocates : Obligations.ResolutionSwitchReallocates :=
  ⟨decodes_low, decodes_high, fun s h => (exec_low s).trans (congrArg _ (s.setResolution_same .lo h)),
    fun s h => (exec_high s).trans (congrArg _ (s.setResolution_same .hi h)),
    fun s h => setResolution_reallocates (exec_low s) (by simp [h]),
    fun s h => setResolution_reallocates (exec_high s) (by simp [h])⟩

end Sys2Proof.Machine
end

section
/-! PROOFS. The scrolls (40_display.md R155 to R158, R161 to R163). -/

namespace Sys2Proof.Machine

/-! A list shifted by `n` places, the free places filled with `d`. -/

theorem getD_shiftDown {α : Type} (l : List α) (n h y : Nat) (d e : α) (hy : y < h) :
    ((List.replicate n d ++ l).take h).getD y e = if n ≤ y then l.getD (y - n) e else d := by
  simp only [List.getD_eq_getElem?_getD, List.getElem?_take, if_pos hy]
  split_ifs with hn
  · rw [List.getElem?_append_right (by simpa using hn), List.length_replicate]
  · rw [List.getElem?_append_left (by simpa using hn), List.getElem?_replicate_of_lt (by omega), Option.getD_some]

theorem getD_shiftUp {α : Type} (l : List α) (n y : Nat) (d e : α) (hy : y < l.length) :
    ((l ++ List.replicate n d).drop n).getD y e = if y + n < l.length then l.getD (y + n) e else d := by
  simp only [List.getD_eq_getElem?_getD, List.getElem?_drop, Nat.add_comm n y]
  split_ifs with hn
  · rw [List.getElem?_append_left hn]
  · rw [List.getElem?_append_right (by omega), List.getElem?_replicate_of_lt (by omega), Option.getD_some]

theorem getD_map_row (f : List Bool → List Bool) (rows : List (List Bool)) (y : Nat) (hy : y < rows.length) :
    (rows.map f).getD y [] = f (rows.getD y []) := by
  simp [List.getD_eq_getElem?_getD, List.getElem?_eq_getElem hy]

theorem getD_blankRow (w x : Nat) : (blankRow w).getD x false = false := by
  simp only [blankRow, List.getD_eq_getElem?_getD, List.getElem?_replicate]
  split_ifs <;> rfl

section
variable (fb : Framebuffer) (n : Nat)

theorem scrolled_of_pos {n : Nat} (hn : n ≠ 0) (rows : List (List Bool)) :
    fb.scrolled n rows = { fb with rows := rows, dirty := true } := if_neg hn

theorem scrolled_zero (rows : List (List Bool)) : fb.scrolled 0 rows = fb := if_pos rfl

theorem scrolled_dirty {n : Nat} (hn : n ≠ 0) (rows : List (List Bool)) : (fb.scrolled n rows).dirty = true := by
  rw [scrolled_of_pos fb hn]

end

section
variable {fb : Framebuffer} {n x y : Nat} (hx : x < fb.mode.width) (hy : y < fb.mode.height)
include hx hy

/-- A pixel of a scrolled grid, in its new rows. -/
theorem get_scrolled (hn : n ≠ 0) (rows : List (List Bool)) :
    (fb.scrolled n rows).get x y = (rows.getD y []).getD x false := by
  rw [scrolled_of_pos fb hn]
  exact Framebuffer.get_eq _ x y hx hy

theorem get_scrollDown (hn : n ≠ 0) : (fb.scrollDown n).get x y = if n ≤ y then fb.get x (y - n) else false := by
  rw [Framebuffer.scrollDown, get_scrolled hx hy hn, getD_shiftDown _ _ _ _ _ _ hy]
  split_ifs
  · rw [fb.get_eq x (y - n) hx (by omega)]
  · exact getD_blankRow _ _

omit hx in
theorem row_length (hw : fb.wf) : (fb.rows.getD y []).length = fb.mode.width := by
  have hy' : y < fb.rows.length := hw.1.symm ▸ hy
  rw [List.getD_eq_getElem _ _ hy']
  exact hw.2 _ (List.getElem_mem hy')

theorem get_scrollUp (hw : fb.wf) :
    (fb.scrollUp n).get x y = if y + n < fb.mode.height then fb.get x (y + n) else false := by
  by_cases hn : n = 0
  · rw [hn, Framebuffer.scrollUp, scrolled_zero, Nat.add_zero, if_pos hy]
  · rw [Framebuffer.scrollUp, get_scrolled hx hy hn, getD_shiftUp _ _ _ _ _ (hw.1.symm ▸ hy), hw.1]
    split_ifs with h
    · rw [fb.get_eq x (y + n) hx h]
    · exact getD_blankRow _ _

theorem get_scrollRight (hw : fb.wf) (hn : n ≠ 0) :
    (fb.scrollRight n).get x y = if n ≤ x then fb.get (x - n) y else false := by
  rw [Framebuffer.scrollRight, get_scrolled hx hy hn, getD_map_row _ _ _ (hw.1.symm ▸ hy), blankRow,
    getD_shiftDown _ _ _ _ _ _ hx]
  split_ifs
  · rw [fb.get_eq (x - n) y (by omega) hy]
  · rfl

theorem get_scrollLeft (hw : fb.wf) (hn : n ≠ 0) :
    (fb.scrollLeft n).get x y = if x + n < fb.mode.width then fb.get (x + n) y else false := by
  have hl := row_length hy hw
  rw [Framebuffer.scrollLeft, get_scrolled hx hy hn, getD_map_row _ _ _ (hw.1.symm ▸ hy), blankRow,
    getD_shiftUp _ _ _ _ _ (hl.symm ▸ hx), hl]
  split_ifs with h
  · rw [fb.get_eq (x + n) y h hy]
  · rfl

end

theorem exec_scd (n : Nat) (s : State) : exec (.scd n) s = .next { s with fb := s.fb.scrollDown n } := rfl

theorem exec_scr (s : State) : exec .scr s = .next { s with fb := s.fb.scrollRight 4 } := rfl

theorem exec_scl (s : State) : exec .scl s = .next { s with fb := s.fb.scrollLeft 4 } := rfl

theorem scrollDown_mode (fb : Framebuffer) (n : Nat) : (fb.scrollDown n).mode = fb.mode := fb.scrolled_mode n _

theorem scrollUp_mode (fb : Framebuffer) (n : Nat) : (fb.scrollUp n).mode = fb.mode := fb.scrolled_mode n _

theorem scrollRight_mode (fb : Framebuffer) (n : Nat) : (fb.scrollRight n).mode = fb.mode := fb.scrolled_mode n _

theorem scrollLeft_mode (fb : Framebuffer) (n : Nat) : (fb.scrollLeft n).mode = fb.mode := fb.scrolled_mode n _

/-- Settles O22: a scroll down shifts the list of rows, one to the side shifts each row. -/
theorem scrollsMovePixels : Obligations.ScrollsMovePixels := by
  refine ⟨decodes_scd, decodes_scr, decodes_scl, fun s => ?_, fun n s hw hn => ?_, fun s hw => ?_, fun s hw => ?_⟩
  · rw [exec_scd, Framebuffer.scrollDown, scrolled_zero]
  · refine ⟨_, exec_scd n s, scrollDown_mode s.fb n, s.fb.scrollDown_wf hw n, scrolled_dirty _ (by omega) _, ?_⟩
    rw [scrollDown_mode]
    exact fun x y hx hy => get_scrollDown hx hy (by omega)
  · refine ⟨_, exec_scr s, scrollRight_mode s.fb 4, s.fb.scrollRight_wf hw 4, scrolled_dirty _ (by decide) _, ?_⟩
    rw [scrollRight_mode]
    exact fun x y hx hy => get_scrollRight hx hy hw (by decide)
  · refine ⟨_, exec_scl s, scrollLeft_mode s.fb 4, s.fb.scrollLeft_wf hw 4, scrolled_dirty _ (by decide) _, ?_⟩
    rw [scrollLeft_mode]
    exact fun x y hx hy => get_scrollLeft hx hy hw (by decide)

/-- Settles O23: the list of rows shifted the other way. -/
theorem scrollUpMovesPixels : Obligations.ScrollUpMovesPixels :=
  fun fb n hw => ⟨fun hn => by rw [hn, Framebuffer.scrollUp, scrolled_zero], fun hn => scrolled_dirty fb hn _,
    scrollUp_mode fb n, fb.scrollUp_wf hw n, fun _ _ hx hy => get_scrollUp hx hy hw⟩

end Sys2Proof.Machine
end

section
/-! PROOFS. The pixel buffer of a redraw (40_display.md R159). -/

namespace Sys2Proof.Machine

/-- An entry of equally long lists put one after another. -/
theorem getElem?_flatMap_of_length {α β : Type} (f : α → List β) (w x : Nat) (hx : x < w) (l : List α)
    (hl : ∀ a ∈ l, (f a).length = w) (y : Nat) : (l.flatMap f)[y * w + x]? = l[y]?.bind fun a => (f a)[x]? := by
  induction l generalizing y with
  | nil => simp
  | cons a l ih =>
    have ha : (f a).length = w := hl a (by simp)
    rw [List.flatMap_cons]
    cases y with
    | zero => rw [List.getElem?_append_left (by omega)]; simp
    | succ y =>
      have hi : (y + 1) * w + x - (f a).length = y * w + x := by rw [ha, Nat.succ_mul]; omega
      rw [List.getElem?_append_right (by rw [ha, Nat.succ_mul]; omega), hi, ih (fun b hb => hl b (by simp [hb]))]
      simp

/-- Settles O47: the rows one after another, each of the grid's width. -/
theorem redrawCarriesThePixels : Obligations.RedrawCarriesThePixels := by
  intro fb hw
  obtain ⟨hh, hr⟩ := hw
  refine ⟨?_, fun x y hx hy => ?_⟩
  · have hc : fb.rows.map (fun r => r.length) = List.replicate fb.mode.height fb.mode.width :=
      List.eq_replicate_iff.2 ⟨by simp [hh], by simpa using hr⟩
    simp [Framebuffer.pixelBytes, List.length_flatMap, hc]
  · have hy' : y < fb.rows.length := hh.symm ▸ hy
    have hx' : x < fb.rows[y].length := (hr _ (List.getElem_mem hy')).symm ▸ hx
    rw [Framebuffer.pixelBytes, getElem?_flatMap_of_length _ _ _ hx _ (by simpa using hr), fb.get_eq x y hx hy]
    simp [hy', hx']

end Sys2Proof.Machine
end

section
/-! PROOFS. DXYN (40_display.md R166 to R173). -/

namespace Sys2Proof.Machine

theorem exec_drw (x y : Reg) (n : Nat) (s : State) : exec (.drw x y n) s =
    .next ({ s with fb := (s.fb.toggleAll (s.v.get x).toNat (s.v.get y).toNat (s.drawnCells n)).1 }.setFlag
      (s.fb.toggleAll (s.v.get x).toNat (s.v.get y).toNat (s.drawnCells n)).2) := rfl

/-! The cells drawn are the sprite's set cells, and no two of them meet on the grid. -/

theorem mem_drawnCells_iff (s : State) (n c r : Nat) : (c, r) ∈ s.drawnCells n ↔ s.SpriteSet n c r := by
  rw [State.drawnCells, State.mem_spriteCells, State.SpriteSet, spriteShape]
  split_ifs with h
  · simp only [State.spriteBit, State.dataAddr, Nat.add_assoc]
  · refine and_congr_right fun hc => ?_
    rw [State.spriteBit, State.dataAddr, Nat.mul_one, Nat.div_eq_of_lt hc, Nat.mod_eq_of_lt hc, Nat.add_zero]

theorem SpriteSet_lt {s : State} {n c r : Nat} (hn : n < 16) (h : s.SpriteSet n c r) : c < 16 ∧ r < 16 := by
  unfold State.SpriteSet at h
  split_ifs at h
  · exact ⟨h.1, h.2.1⟩
  · exact ⟨Nat.lt_trans h.1 (by decide), Nat.lt_trans h.2.1 hn⟩

/-- Two columns or rows of a sprite that meet modulo the grid are one. -/
theorem eq_of_add_mod_eq {o a b m : Nat} (ha : a < m) (hb : b < m) (h : (o + a) % m = (o + b) % m) : a = b := by
  have := Nat.ModEq.add_left_cancel' o h
  rwa [Nat.ModEq, Nat.mod_eq_of_lt ha, Nat.mod_eq_of_lt hb] at this

theorem drawnCells_apart (s : State) {n : Nat} (hn : n < 16) (ox oy : Nat) : s.fb.Apart ox oy (s.drawnCells n) := by
  have hW : 16 ≤ s.fb.mode.width := by cases s.fb.mode <;> decide
  have hH : 16 ≤ s.fb.mode.height := by cases s.fb.mode <;> decide
  refine (s.drawnCells_nodup n).pairwise_of_forall_ne fun ⟨c, r⟩ hc ⟨d, q⟩ hd hne hit => hne ?_
  obtain ⟨hc1, hc2⟩ := SpriteSet_lt hn ((mem_drawnCells_iff s n c r).1 hc)
  obtain ⟨hd1, hd2⟩ := SpriteSet_lt hn ((mem_drawnCells_iff s n d q).1 hd)
  obtain ⟨hx, hy⟩ := hit
  exact Prod.ext (eq_of_add_mod_eq (hc1.trans_le hW) (hd1.trans_le hW) hx)
    (eq_of_add_mod_eq (hc2.trans_le hH) (hd2.trans_le hH) hy)

/-! Where the set cells fall. -/

section
variable {s : State} {x y : Reg} {n p q : Nat}

theorem covers_lt (h : s.SpriteCovers x y n p q) : p < s.fb.mode.width ∧ q < s.fb.mode.height := by
  obtain ⟨c, r, -, rfl, rfl⟩ := h
  exact ⟨Nat.mod_lt _ s.fb.mode.width_pos, Nat.mod_lt _ s.fb.mode.height_pos⟩

theorem covers_iff_hits (hp : p < s.fb.mode.width) (hq : q < s.fb.mode.height) : s.SpriteCovers x y n p q ↔
    ∃ c ∈ s.drawnCells n, s.fb.Hits (s.v.get x).toNat (s.v.get y).toNat p q c := by
  simp only [State.SpriteCovers, Framebuffer.Hits, Nat.mod_eq_of_lt hp, Nat.mod_eq_of_lt hq, Prod.exists,
    mem_drawnCells_iff, eq_comm]

theorem get_mod (fb : Framebuffer) (p q : Nat) : fb.get (p % fb.mode.width) (q % fb.mode.height) = fb.get p q := by
  simp only [Framebuffer.get, Nat.mod_mod]

theorem covered_on_iff : (∃ p q, s.SpriteCovers x y n p q ∧ s.fb.get p q = true) ↔
    ∃ c ∈ s.drawnCells n, s.fb.get ((s.v.get x).toNat + c.1) ((s.v.get y).toNat + c.2) = true := by
  constructor
  · rintro ⟨p, q, ⟨c, r, hc, rfl, rfl⟩, hon⟩
    exact ⟨(c, r), (mem_drawnCells_iff s n c r).2 hc, get_mod s.fb _ _ ▸ hon⟩
  · rintro ⟨⟨c, r⟩, hc, hon⟩
    exact ⟨_, _, ⟨c, r, (mem_drawnCells_iff s n c r).1 hc, rfl, rfl⟩, (get_mod s.fb _ _).trans hon⟩

theorem some_cell_iff (s : State) (n : Nat) : (∃ c r, s.SpriteSet n c r) ↔ (s.drawnCells n).isEmpty = false := by
  simp only [← mem_drawnCells_iff, ← Prod.exists (p := fun c => c ∈ s.drawnCells n),
    List.isEmpty_eq_false_iff_exists_mem]

end

/-- Settles O24: the cells drawn are the set cells and fall on different pixels, so each covered pixel turns once. -/
theorem drawTurnsCoveredPixels : Obligations.DrawTurnsCoveredPixels := by
  refine ⟨decodes_drw, fun x y n s hn hw => ?_⟩
  have ha := drawnCells_apart s hn (s.v.get x).toNat (s.v.get y).toNat
  have hm := s.fb.toggleAll_mode (s.v.get x).toNat (s.v.get y).toNat (s.drawnCells n)
  have hd := s.fb.toggleAll_dirty (s.v.get x).toNat (s.v.get y).toNat (s.drawnCells n)
  have hc := s.fb.toggleAll_collision _ _ _ hw ha
  refine ⟨_, s.v.set vf.val (flagByte _), exec_drw x y n s, hm, s.fb.toggleAll_wf hw _ _ _, ?_, ?_, ?_, ?_, ?_, ?_⟩
  · rw [hm]
    refine fun p q hp hq => ⟨fun h => ?_, fun h => ?_⟩
    · exact Framebuffer.get_toggleAll_hit _ _ _ _ _ _ hw ha ((covers_iff_hits hp hq).1 h)
    · exact Framebuffer.get_toggleAll_miss _ _ _ _ _ _ hw fun c hc hit => h ((covers_iff_hits hp hq).2 ⟨c, hc, hit⟩)
  · intro h
    rw [hd, (some_cell_iff s n).1 h, Bool.not_false, Bool.or_true]
  · intro h
    rw [some_cell_iff, Bool.not_eq_false] at h
    rw [hd, h, Bool.not_true, Bool.or_false]
  · intro h
    rw [State.get_set_v, if_pos rfl, hc.2 (covered_on_iff.1 h)]
    rfl
  · intro h
    rw [State.get_set_v, if_pos rfl, Bool.eq_false_iff.2 fun e => h (covered_on_iff.2 (hc.1 e))]
    rfl
  · intro r hr
    rw [State.get_set_v, if_neg hr]

/-- A sprite of no rows has no cells. -/
theorem drawnCells_zero_lo {s : State} (h : s.fb.mode = .lo) : s.drawnCells 0 = [] := by
  simp [State.drawnCells, State.spriteCells, spriteShape, h]

/-- Settles O25: with no cells there is no toggle and no collision. -/
theorem drawZeroInLowResOnlyClearsVF : Obligations.DrawZeroInLowResOnlyClearsVF := by
  intro x y s h
  rw [exec_drw, drawnCells_zero_lo h]
  rfl

/-- Grids of one size with the same pixels are the same rows. -/
theorem rows_eq_of_get {fb fb' : Framebuffer} (hm : fb.mode = fb'.mode) (hw : fb.wf) (hw' : fb'.wf)
    (hg : ∀ x y, x < fb'.mode.width → y < fb'.mode.height → fb.get x y = fb'.get x y) : fb.rows = fb'.rows := by
  have hlen : fb.rows.length = fb'.rows.length := by rw [hw.1, hw'.1, hm]
  refine List.ext_getElem hlen fun y hy hy' => ?_
  have hl := hw.2 _ (List.getElem_mem hy)
  have hl' := hw'.2 _ (List.getElem_mem hy')
  refine List.ext_getElem (by rw [hl, hl', hm]) fun x hx hx' => ?_
  have hX : x < fb'.mode.width := hl' ▸ hx'
  have hY : y < fb'.mode.height := hw'.1 ▸ hy'
  have h := hg x y hX hY
  rw [fb'.get_eq x y hX hY, fb.get_eq x y (hm.symm ▸ hX) (hm.symm ▸ hY)] at h
  simpa [hy, hy', hx, hx'] using h

/-- The second drawing covers what the first did: memory, I, the mode and the origin are the same. -/
theorem covers_congr {s t : State} {x y x' y' : Reg} (hm : t.mem = s.mem) (hi : t.i = s.i) (hf : t.fb.mode = s.fb.mode)
    (hx : t.v.get x' = s.v.get x) (hy : t.v.get y' = s.v.get y) (n p q : Nat) :
    t.SpriteCovers x' y' n p q ↔ s.SpriteCovers x y n p q := by
  simp only [State.SpriteCovers, State.SpriteSet, State.memRead, hm, hi, hf, hx, hy]

/-- Settles O26: a covered pixel turns twice, every other not at all, and a pixel on at the second drawing was off at
the first. -/
theorem drawTwiceRestoresGrid : Obligations.DrawTwiceRestoresGrid := by
  intro x y n x' y' s t u hn hw ht hx hy hu
  obtain ⟨fb₁, v₁, he₁, hm₁, hw₁, hp₁, -, -, -, -, -⟩ := drawTurnsCoveredPixels.2 x y n s hn hw
  cases he₁.symm.trans ht
  obtain ⟨fb₂, v₂, he₂, hm₂, hw₂, hp₂, -, -, hon, hoff, -⟩ :=
    drawTurnsCoveredPixels.2 x' y' n { s with fb := fb₁, v := v₁ } hn hw₁
  cases he₂.symm.trans hu
  have hcov := covers_congr (s := s) (t := { s with fb := fb₁, v := v₁ }) rfl rfl hm₁ hx hy n
  have hm : fb₂.mode = s.fb.mode := hm₂.trans hm₁
  refine ⟨rows_eq_of_get hm hw₂ hw fun p q hp hq => ?_, hm, ?_⟩
  · obtain ⟨hc₁, hn₁⟩ := hp₁ p q (hm₁ ▸ hp) (hm₁ ▸ hq)
    obtain ⟨hc₂, hn₂⟩ := hp₂ p q (hm ▸ hp) (hm ▸ hq)
    by_cases hc : s.SpriteCovers x y n p q
    · rw [hc₂ ((hcov p q).2 hc), hc₁ hc, Bool.not_not]
    · rw [hn₂ fun h => hc ((hcov p q).1 h), hn₁ hc]
  · have turned : ∀ p q, s.SpriteCovers x y n p q → (fb₁.get p q = true ↔ s.fb.get p q = false) := by
      intro p q hc
      obtain ⟨hp, hq⟩ := covers_lt hc
      rw [(hp₁ p q (hm₁ ▸ hp) (hm₁ ▸ hq)).1 hc, Bool.not_eq_true']
    constructor
    · rintro ⟨p, q, hc, hg⟩
      exact hon ⟨p, q, (hcov p q).2 hc, (turned p q hc).2 hg⟩
    · intro hv
      by_contra hne
      have h0 := hoff fun ⟨p, q, hc, hg⟩ => hne ⟨p, q, (hcov p q).1 hc, (turned p q ((hcov p q).1 hc)).1 hg⟩
      exact absurd (h0.symm.trans hv) (by decide)

end Sys2Proof.Machine
end

section
/-! PROOFS. The CPU step (30_encoding.md R120, R128; 60_exceptions.md R405). -/

namespace Sys2Proof.Machine

variable {s t : State} {i : Instr}

theorem step_fetching (h : s.Fetching) : step s = cpuStep s := by
  obtain ⟨ht, hr, hp⟩ := h
  rw [step_of_no_turns s ht, coreTransition_cpuStep s hr hp]

theorem cpuStep_of_decodes (hd : decodeWord (s.wordAt s.pc) = .ok i) :
    cpuStep s = onNext State.afterCpuStep (exec i { s with pc := s.pc + 2 }) := by
  rw [cpuStep, dispatchWord, hd]
  rfl

/-- A CPU step whose instruction leaves the engine running: the clock comes next. -/
theorem cpuStep_runs_on (hd : decodeWord (s.wordAt s.pc) = .ok i) (he : exec i { s with pc := s.pc + 2 } = .next t)
    (hr : t.status = .running) : cpuStep s = .next { t with place := .clock } := by
  rw [cpuStep_of_decodes hd, he, onNext, t.afterCpuStep_running hr]

/-- The instruction word depends on memory alone. -/
theorem wordAt_of_mem_eq (h : s.mem = t.mem) (a : Word) : s.wordAt a = t.wordAt a := by
  rw [State.wordAt, State.wordAt, memRead_of_mem_eq h, memRead_of_mem_eq h]

theorem wordAt_eq (s : State) (a : Word) :
    s.wordAt a = s.memRead (a.toNat % 4096) ++ s.memRead ((a.toNat + 1) % 4096) :=
  congrArg₂ joinBytes (s.memRead_mod a.toNat).symm (s.memRead_mod (a.toNat + 1)).symm

/-- Settles O5: the word fetched is dispatched on the state with PC advanced. -/
theorem stepRunsDecodedInstruction : Obligations.StepRunsDecodedInstruction := by
  intro s w h hw
  obtain rfl : w = s.wordAt s.pc := hw.trans (wordAt_eq s s.pc).symm
  exact ⟨fun i hd => (step_fetching h).trans (cpuStep_of_decodes hd),
    fun m hd => (step_fetching h).trans (cpuStep_miss s m hd)⟩

/-- Settles O3: a miss lacks a secondary key of its group, and the step on it keeps STATUS at Running. -/
theorem missSpaceIsExactAndNonFatal : Obligations.MissSpaceIsExactAndNonFatal := by
  refine ⟨miss_iff_no_row, miss_iff_missing_key, fun s h m hd => ?_⟩
  have hr : (s.advance.missed s.pc (s.wordAt s.pc)).status = .running := h.2.1
  rw [step_fetching h, cpuStep_miss s m hd, State.afterCpuStep_running _ hr]
  rfl

/-! A word placed at PC. -/

theorem tableBytes_toNat (w : Word) : tableBytes 16 w.toNat = [highByte w, lowByte w] := by
  rw [tableBytes, Nat.mod_eq_of_lt w.isLt, BitVec.ofNat_toNat, BitVec.setWidth_eq]

theorem decodeTableWord_toNat {w : Word} (hd : decodeWord w = .ok i) : decodeTableWord 16 w.toNat = some i := by
  rw [decodeTableWord, tableBytes_toNat, decodeBytes, joinBytes_highByte_lowByte, hd]

theorem withFetchWord_eq (s : State) (w : Nat) : s.withFetchWord 16 w = { s with
    mem := (s.placeWord 16 w).mem, status := .running, place := .step, turns := [] } := by
  rw [State.withFetchWord, State.placeWord, State.memWriteList_frame]
  rfl

theorem wordAt_withFetchWord (hw : Memory.wf s.mem) (w : Word) : (s.withFetchWord 16 w.toNat).wordAt s.pc = w := by
  have read := memRead_memWriteList_inside hw s.pc.toNat [highByte w, lowByte w] (by simp [Config.memSize])
  rw [withFetchWord_eq, State.placeWord, tableBytes_toNat]
  exact (congrArg₂ joinBytes (read 0 (by simp)) (read 1 (by simp))).trans (joinBytes_highByte_lowByte w)

/-- Settles O6: the two bytes placed are read back as the word, and the next transition is the CPU step. -/
theorem placedWordRunsNext : Obligations.PlacedWordRunsNext := by
  intro s w i hw hd
  have hpc : (s.withFetchWord 16 w.toNat).pc = s.pc := by rw [withFetchWord_eq]
  have hword := wordAt_withFetchWord hw w
  have hf : (s.withFetchWord 16 w.toNat).Fetching := by rw [withFetchWord_eq]; exact ⟨rfl, rfl, rfl⟩
  refine ⟨decodeTableWord_toNat hd, hword, hpc, ?_⟩
  rw [step_fetching hf, cpuStep_of_decodes (i := i) (by rw [hpc, hword, hd]), hpc]

theorem exec_exit (s : State) : exec .exit s =
    .next { s with status := .halted, outputs := s.outputs ++ [.status .halted] } := rfl

theorem step_stopped (ht : s.turns = []) (hs : s.status ≠ .running) : step s = .next s := by
  rw [step_of_no_turns s ht, coreTransition_stopped s hs]

/-- Settles O19: the halt ends the run, and a halted engine stays as it is. -/
theorem exitHalts : Obligations.ExitHalts := by
  refine ⟨decodes_exit, exec_exit, fun s h hd => ⟨_, ?_, rfl, step_stopped h.1 (by simp)⟩⟩
  rw [step_fetching h, cpuStep_of_decodes hd, exec_exit, onNext, State.afterCpuStep_stopped _ (by simp)]

/-- Settles O44: by induction on the number of steps. -/
theorem stoppedEngineStaysAsItIs : Obligations.StoppedEngineStaysAsItIs := by
  intro k s ht hs
  induction k with
  | zero => rfl
  | succ k ih => rw [run_succ k s s (step_stopped ht hs), ih]

/-- Settles O45: the core always completes, and of the host's transactions only a load can be refused. -/
theorem stepStopsOnlyOnLoadWhileRunning : Obligations.StepStopsOnlyOnLoadWhileRunning := by
  intro s
  rcases ht : s.turns with _ | ⟨_ | e, rest⟩
  · rw [step_of_no_turns s ht]
    exact .inl (coreTransition_completes s)
  · rw [step_of_core_turn s rest ht]
    exact .inl (coreTransition_completes _)
  · rw [step_of_host_turn s e rest ht]
    cases e with
    | load bytes =>
      by_cases hr : s.status = .running
      · exact .inr ⟨hr, ⟨bytes, rest, rfl⟩, if_pos hr⟩
      · exact .inl ⟨_, if_neg hr⟩
    | keySet | reset | cancel | start => exact .inl ⟨_, rfl⟩

end Sys2Proof.Machine
end

section
/-! PROOFS. The sound timer and the schedule are read by no instruction (10_state.md R42; log 7). -/

namespace Sys2Proof.Machine

/-- Another value in the sound timer and another schedule. -/
def State.withUnread (s : State) (b : Byte) (ts : List Turn) : State := { s with st := b, turns := ts }

/-- Another schedule. -/
def State.withTurns (s : State) (ts : List Turn) : State := { s with turns := ts }

variable (s : State) (b : Byte) (ts : List Turn)

theorem raise_withUnread (code : FaultCode) : (s.withUnread b ts).raise code = (s.raise code).withUnread b ts := rfl

theorem skipIf_withUnread (c : Bool) : (s.withUnread b ts).skipIf c = (s.skipIf c).withUnread b ts := by
  cases c <;> rfl

theorem skipOnKey_withUnread (x : Reg) (down : Bool) :
    (s.withUnread b ts).skipOnKey x down = (s.skipOnKey x down).withUnread b ts := by
  by_cases h : (s.reg x).toNat < 16
  · rw [s.skipOnKey_key x ⟨_, h⟩ down rfl, (s.withUnread b ts).skipOnKey_key x ⟨_, h⟩ down rfl]
    exact skipIf_withUnread s b ts _
  · have h : 0xF < (s.reg x).toNat := by omega
    rw [s.skipOnKey_bad x down h, (s.withUnread b ts).skipOnKey_bad x down h, raise_withUnread]

theorem callTo_withUnread (a : Word) : (s.withUnread b ts).callTo a = (s.callTo a).withUnread b ts := by
  by_cases h : s.sp.val < 16
  · rw [s.callTo_push a h, (s.withUnread b ts).callTo_push a h]
    rfl
  · have h : s.sp.val = 16 := by omega
    rw [s.callTo_full a h, (s.withUnread b ts).callTo_full a h, raise_withUnread]

theorem returnFrom_withUnread : (s.withUnread b ts).returnFrom = s.returnFrom.withUnread b ts := by
  by_cases h : s.sp.val = 0
  · rw [s.returnFrom_empty h, (s.withUnread b ts).returnFrom_empty h, raise_withUnread]
  · have hk : s.sp.val = (⟨s.sp.val - 1, by omega⟩ : Fin 16).val + 1 := by simp only; omega
    rw [s.returnFrom_pop _ hk, (s.withUnread b ts).returnFrom_pop _ hk]
    rfl

theorem setResolution_withUnread (m : Mode) :
    (s.withUnread b ts).setResolution m = (s.setResolution m).withUnread b ts := by
  by_cases h : s.fb.mode = m
  · rw [s.setResolution_same m h, (s.withUnread b ts).setResolution_same m h]
  · rw [s.setResolution_change m h, (s.withUnread b ts).setResolution_change m h]
    rfl

theorem memWriteList_withUnread (a : Nat) (bs : List Byte) :
    (s.withUnread b ts).memWriteList a bs = (s.memWriteList a bs).withUnread b ts := by
  rw [State.memWriteList_frame, State.memWriteList_mem_congr (s.withUnread b ts) s rfl, State.memWriteList_frame s]
  rfl

/-- An instruction other than FX18 neither reads nor writes the two. -/
theorem exec_withUnread {i : Instr} (hi : ∀ x, i ≠ .ldST x) :
    exec i (s.withUnread b ts) = onNext (State.withUnread · b ts) (exec i s) := by
  cases i
  case ldST x => exact absurd rfl (hi x)
  case ret => exact congrArg Host.Outcome.next (returnFrom_withUnread s b ts)
  case call => exact congrArg Host.Outcome.next (callTo_withUnread s b ts _)
  case low | high => exact congrArg Host.Outcome.next (setResolution_withUnread s b ts _)
  case seImm | sneImm | seReg | sneReg => exact congrArg Host.Outcome.next (skipIf_withUnread s b ts _)
  case skp | sknp => exact congrArg Host.Outcome.next (skipOnKey_withUnread s b ts _ _)
  case ldVxK x =>
    cases hk : firstKeyDown s.key with
    | some k => rw [exec_ldVxK_of_key hk, exec_ldVxK_of_key (s := s.withUnread b ts) hk]; rfl
    | none => rw [exec_ldVxK_of_none hk, exec_ldVxK_of_none (s := s.withUnread b ts) hk]; rfl
  case ldB x => exact congrArg Host.Outcome.next (memWriteList_withUnread s b ts _ _)
  case storeRegs x =>
    exact congrArg (fun t => Host.Outcome.next (State.advanceI t x)) (memWriteList_withUnread s b ts _ _)
  all_goals rfl

/-- Settles O42: with the schedule left as it is, since no instruction writes it. -/
theorem soundTimerIsNeverRead : Obligations.SoundTimerIsNeverRead := by
  intro i s b
  refine ⟨fun hi => ?_, fun ⟨x, hx⟩ => hx ▸ rfl⟩
  obtain ⟨t, ht⟩ := exec_completes i s
  obtain ⟨-, -, -, hturns, -⟩ := (exec_effect ht).frame
  have hunread : t.withUnread b s.turns = { t with st := b } := by rw [← hturns]; rfl
  refine (exec_withUnread s b s.turns hi).trans ?_
  rw [ht]
  exact congrArg Host.Outcome.next hunread

theorem exec_withTurns (i : Instr) : exec i (s.withTurns ts) = onNext (State.withTurns · ts) (exec i s) := by
  by_cases hi : ∃ x, i = .ldST x
  · obtain ⟨x, rfl⟩ := hi
    rfl
  · have hi : ∀ x, i ≠ .ldST x := fun x hx => hi ⟨x, hx⟩
    obtain ⟨t, ht⟩ := exec_completes i s
    have hunread : t.withUnread s.st ts = t.withTurns ts := by rw [← (exec_effect ht).st_eq hi]; rfl
    refine (exec_withUnread s s.st ts hi).trans ?_
    rw [ht]
    exact congrArg Host.Outcome.next hunread

theorem afterCpuStep_withTurns : (s.withTurns ts).afterCpuStep = s.afterCpuStep.withTurns ts := by
  by_cases h : s.status = .running
  · rw [s.afterCpuStep_running h, (s.withTurns ts).afterCpuStep_running h]
    rfl
  · rw [s.afterCpuStep_stopped h, (s.withTurns ts).afterCpuStep_stopped h]
    rfl

theorem cpuStep_withTurns : cpuStep (s.withTurns ts) = onNext (State.withTurns · ts) (cpuStep s) := by
  cases hd : decodeWord (s.wordAt s.pc) with
  | ok i =>
    obtain ⟨t, ht⟩ := exec_completes i s.advance
    have ht' : exec i (s.advance.withTurns ts) = .next (t.withTurns ts) := by rw [exec_withTurns, ht]; rfl
    rw [cpuStep_instr s t i hd ht, cpuStep_instr (s.withTurns ts) (t.withTurns ts) i hd ht', afterCpuStep_withTurns]
    rfl
  | error m =>
    rw [cpuStep_miss s m hd, cpuStep_miss (s.withTurns ts) m hd]
    exact congrArg Host.Outcome.next (afterCpuStep_withTurns (s.advance.missed s.pc (s.wordAt s.pc)) ts)

theorem reinitialise_withTurns : (s.withTurns ts).reinitialise = s.reinitialise.withTurns ts := by
  have hn : (s.withTurns ts).resetNotice = s.resetNotice.withTurns ts :=
    (apply_ite (State.withTurns · ts) (s.fb.mode = .hi) (s.emit (.resolutionChanged .lo)) s).symm
  rw [State.reinitialise, hn]
  rfl

theorem beginIteration_withTurns : (s.withTurns ts).beginIteration = s.beginIteration.withTurns ts := by
  cases hc : s.cancelRequested with
  | true =>
    rw [s.beginIteration_cancel hc, (s.withTurns ts).beginIteration_cancel hc]
    rfl
  | false =>
    cases hq : s.resetQueued with
    | true =>
      rw [s.beginIteration_reset hc hq, (s.withTurns ts).beginIteration_reset hc hq, reinitialise_withTurns]
      rfl
    | false =>
      rw [s.beginIteration_plain hc hq, (s.withTurns ts).beginIteration_plain hc hq]
      rfl

theorem coreTransition_withTurns :
    coreTransition (s.withTurns ts) = onNext (State.withTurns · ts) (coreTransition s) := by
  by_cases hr : s.status = .running
  · cases hp : s.place
    case top =>
      rcases le_or_gt Config.ioPeriod s.acc with ha | ha
      · rw [coreTransition_tick s hr hp ha, coreTransition_tick (s.withTurns ts) hr hp ha, catchUp_eq, catchUp_eq]
        rfl
      · rw [coreTransition_begin s hr hp ha, coreTransition_begin (s.withTurns ts) hr hp ha, beginIteration_withTurns]
        rfl
    case step =>
      rw [coreTransition_cpuStep s hr hp, coreTransition_cpuStep (s.withTurns ts) hr hp, cpuStep_withTurns]
    case clock =>
      rw [coreTransition_clock s hr hp, coreTransition_clock (s.withTurns ts) hr hp]
      rfl
  · rw [coreTransition_stopped s hr, coreTransition_stopped (s.withTurns ts) hr]
    rfl

/-- Settles O58: no transition of the core reads or writes the schedule. -/
theorem listedCoreTurnIsTheCoresTurn : Obligations.ListedCoreTurnIsTheCoresTurn := by
  intro s rest h
  rw [step_of_core_turn s rest h, step_of_no_turns { s with turns := [] } rfl]
  exact coreTransition_withTurns { s with turns := [] } rest

end Sys2Proof.Machine
end

section
/-! PROOFS. The dual-rate loop: ticks, the clock and the catch-up (60_exceptions.md R420 to R424, R430 to R433). -/

namespace Sys2Proof.Machine

variable {s : State}

theorem step_tick (ht : s.turns = []) (hr : s.status = .running) (hp : s.place = .top) (ha : Config.ioPeriod ≤ s.acc) :
    step s = .next s.catchUp := by
  rw [step_of_no_turns s ht, coreTransition_tick s hr hp ha]

/-- Settles O46: a tick field by field, each timer counted down. -/
theorem ioTickCountsToneFlush : Obligations.IoTickCountsToneFlush := by
  intro s ht hr hp ha
  refine ⟨countDown s.dt, countDown s.st, ?_, countDown_toNat _, countDown_toNat _⟩
  rw [step_tick ht hr hp ha, catchUp_eq]

theorem step_clock (ht : s.turns = []) (hr : s.status = .running) (hp : s.place = .clock) :
    step s = .next s.readClock := by
  rw [step_of_no_turns s ht, coreTransition_clock s hr hp]

theorem reading_of_supplied {r : Config.Reading} {rest : List Config.Reading} (h : s.readings = r :: rest) :
    s.reading = r := by
  rw [State.reading, h, List.headD_cons]

/-- The clock reading where the next reading is supplied. -/
theorem readClock_of_supplied {r : Config.Reading} {rest : List Config.Reading} (h : s.readings = r :: rest) :
    s.readClock = { s with acc := s.acc + r.seconds, place := .top, readings := rest, draws := s.draws + 1 } := by
  rw [State.readClock, reading_of_supplied h, h, List.tail_cons]

theorem step_clock_supplied {r : Config.Reading} {rest : List Config.Reading} (ht : s.turns = [])
    (hr : s.status = .running) (hp : s.place = .clock) (h : s.readings = r :: rest) : step s = .next { s with
      acc := s.acc + r.seconds, place := .top, readings := rest, draws := s.draws + 1 } := by
  rw [step_clock ht hr hp, readClock_of_supplied h]

/-- Every non-negative time is a reading. -/
theorem exists_reading {d : Rat} (hd : 0 ≤ d) : ∃ r : Config.Reading, r.seconds = d := by
  refine ⟨⟨d.num.toNat, d.den - 1⟩, ?_⟩
  rw [Config.Reading.seconds, Int.toNat_of_nonneg (Rat.num_nonneg.2 hd), Nat.sub_add_cancel d.den_pos, Rat.mkRat_self]

/-- Settles O48: the reading drawn is added, and the numerator and denominator of a time are a reading. -/
theorem clockAddsAnyElapsedTime : Obligations.ClockAddsAnyElapsedTime := by
  refine ⟨fun s ht hr hp => ⟨_, reading_seconds_nonneg s.reading, step_clock ht hr hp⟩, fun d hd => ?_⟩
  obtain ⟨r, rfl⟩ := exists_reading hd
  exact ⟨r, fun s rest ht hr hp hread => step_clock_supplied ht hr hp hread⟩

/-- `k` ticks in a row: what they change and by how much. -/
theorem run_ticks (k : Nat) (s : State) (ht : s.turns = []) (hr : s.status = .running) (hp : s.place = .top)
    (ha : (k : Rat) * Config.ioPeriod ≤ s.acc) : ∃ dt st dirty os,
      core.run k s = .next { s with
        dt := dt, st := st, acc := s.acc - (k : Rat) * Config.ioPeriod, fb := { s.fb with dirty := dirty }
        outputs := os } ∧
      dt.toNat = s.dt.toNat - k ∧ st.toNat = s.st.toNat - k := by
  induction k generalizing s with
  | zero =>
    refine ⟨s.dt, s.st, s.fb.dirty, s.outputs, ?_, rfl, rfl⟩
    rw [Nat.cast_zero, zero_mul, sub_zero]
    rfl
  | succ k ih =>
    have hsplit : ((k + 1 : Nat) : Rat) * Config.ioPeriod = (k : Rat) * Config.ioPeriod + Config.ioPeriod := by
      push_cast; ring
    have hk : 0 ≤ (k : Rat) * Config.ioPeriod := mul_nonneg k.cast_nonneg ioPeriod_pos.le
    rw [hsplit] at ha ⊢
    obtain ⟨dt, st, dirty, os, hrun, hdt, hst⟩ := ih s.catchUp (by rw [catchUp_eq]; exact ht)
      (by rw [catchUp_eq]; exact hr) (by rw [catchUp_eq]; exact hp) (by rw [catchUp_eq]; exact le_sub_iff_add_le.2 ha)
    rw [catchUp_eq] at hdt hst
    refine ⟨dt, st, dirty, os, ?_, by rw [hdt, countDown_toNat]; omega, by rw [hst, countDown_toNat]; omega⟩
    rw [run_succ k s _ (step_tick ht hr hp (by linarith)), hrun, catchUp_eq, add_comm, ← sub_sub]

/-- Settles O49: as many ticks as there are whole periods on ACC leave less than one. -/
theorem catchUpRunsWholePeriods : Obligations.CatchUpRunsWholePeriods := by
  intro s k ht hr hp h0 hk hlt
  obtain ⟨dt, st, dirty, os, hrun, hdt, hst⟩ := run_ticks k s ht hr hp hk
  exact ⟨_, hrun, rfl, sub_nonneg.2 hk, by linarith, hdt, hst, rfl, rfl, rfl, rfl, rfl, rfl, rfl, rfl, rfl,
    rfl, rfl, hp, ht⟩

theorem step_begin (ht : s.turns = []) (hr : s.status = .running) (hp : s.place = .top) (ha : s.acc < Config.ioPeriod) :
    step s = .next s.beginIteration := by
  rw [step_of_no_turns s ht, coreTransition_begin s hr hp ha]

end Sys2Proof.Machine
end

section
/-! PROOFS. The host's transactions (60_exceptions.md R441, R447, R448; 70_reset_and_hazards.md R461 to R465). -/

namespace Sys2Proof.Machine

variable {s : State} {rest : List Turn}

theorem step_begin_plain (ht : s.turns = []) (hr : s.status = .running) (hp : s.place = .top)
    (ha : s.acc < Config.ioPeriod) (hc : s.cancelRequested = false) (hq : s.resetQueued = false) :
    step s = .next { s with place := .step } := by
  rw [step_begin ht hr hp ha, s.beginIteration_plain hc hq]

/-- Settles O50: the transaction is one write to the key flags. -/
theorem keyDeliveryOverwrites : Obligations.KeyDeliveryOverwrites := by
  intro s k down rest ht
  refine ⟨s.key.set k.val down, step_of_host_turn s _ rest ht, ?_, fun j hj => ?_⟩
  · rw [get_set_entry _ _ k.isLt, if_pos rfl]
  · rw [get_set_entry _ _ k.isLt, if_neg fun e => hj (Fin.ext e)]

theorem step_reset_stopped (ht : s.turns = .host .reset :: rest) (hs : s.status ≠ .running) :
    step s = .next { s with turns := rest }.reinitialise := by
  rw [step_of_host_turn s _ rest ht]
  exact congrArg Host.Outcome.next (if_neg hs)

theorem step_reset_running (ht : s.turns = .host .reset :: rest) (hr : s.status = .running) :
    step s = .next { s with turns := rest, resetQueued := true } := by
  rw [step_of_host_turn s _ rest ht]
  exact congrArg Host.Outcome.next (if_pos hr)

theorem coreTransition_begin_reset (hr : s.status = .running) (hp : s.place = .top)
    (ha : s.acc < Config.ioPeriod) (hc : s.cancelRequested = false) (hq : s.resetQueued = true) :
    coreTransition s = .next { s.reinitialise with place := .step } := by
  rw [coreTransition_begin s hr hp ha, s.beginIteration_reset hc hq]

/-- Settles O51: the reset is `State.reinitialise` wherever it is applied. -/
theorem resetProcedure : Obligations.ResetProcedure := by
  refine ⟨fun s rest ht hs => ⟨_, step_reset_stopped ht hs, State.reinitialise_ResetTo _⟩,
    fun s rest ht hr => step_reset_running ht hr, fun s ht hr hp ha hc hq => ?_⟩
  have hR := s.reinitialise_ResetTo
  obtain ⟨hs, -, hts⟩ := resetTo_running hR hr
  refine ⟨s.reinitialise, hR, ?_, hts.trans ht, hs, rfl⟩
  rw [step_of_no_turns s ht, coreTransition_begin_reset hr hp ha hc hq]

/-- Settles O52: each request by whether STATUS lets it act, and the loop's exit. -/
theorem startAndCancel : Obligations.StartAndCancel := by
  refine ⟨fun s rest ht hi => ?_, fun s rest ht hi => ?_, fun s rest ht hr => ?_, fun s rest ht hr => ?_,
    fun s ht hr hp ha hc => ?_⟩
  · exact (step_of_host_turn s _ rest ht).trans (congrArg Host.Outcome.next (if_pos hi))
  · exact (step_of_host_turn s _ rest ht).trans (congrArg Host.Outcome.next (if_neg hi))
  · exact (step_of_host_turn s _ rest ht).trans (congrArg Host.Outcome.next (if_pos hr))
  · exact (step_of_host_turn s _ rest ht).trans (congrArg Host.Outcome.next (if_neg hr))
  · rw [step_begin ht hr hp ha, s.beginIteration_cancel hc]

/-! Program load. -/

theorem loadProgram_fits (s : State) {bytes : List Byte} (h : bytes.length ≤ 3584) :
    s.loadProgram bytes = { s with mem := (s.memWriteList 0x200 bytes).mem } :=
  (if_pos h).trans (s.memWriteList_frame _ _)

theorem loadProgram_too_long (s : State) {bytes : List Byte} (h : 3584 < bytes.length) :
    s.loadProgram bytes = { s with outputs := s.outputs ++ [.status .loadError] } :=
  if_neg (Nat.not_le.2 h)

theorem step_load_stopped {bytes : List Byte} (ht : s.turns = .host (.load bytes) :: rest) (hs : s.status ≠ .running) :
    step s = .next ({ s with turns := rest }.loadProgram bytes) :=
  (step_of_host_turn s _ rest ht).trans (if_neg hs)

theorem step_load_fits {bytes : List Byte} (ht : s.turns = .host (.load bytes) :: rest) (hs : s.status ≠ .running)
    (hl : bytes.length ≤ 3584) :
    step s = .next { s with turns := rest, mem := (s.memWriteList 0x200 bytes).mem } := by
  rw [step_load_stopped ht hs, loadProgram_fits _ hl, State.memWriteList_mem_congr { s with turns := rest } s rfl]

/-- What memory holds after a program is copied to 0x200 on. -/
theorem memWriteList_progBase (hw : Memory.wf s.mem) {bytes : List Byte} (h : bytes.length ≤ 3584) :
    Memory.wf (s.memWriteList 0x200 bytes).mem ∧
    (∀ k, (hk : k < bytes.length) → (s.memWriteList 0x200 bytes).memRead (0x200 + k) = bytes[k]) ∧
    ∀ a, a < 4096 → (a < 0x200 ∨ 0x200 + bytes.length ≤ a) → (s.memWriteList 0x200 bytes).memRead a = s.memRead a := by
  have hl : bytes.length ≤ Config.memSize := Nat.le_trans h (by decide)
  refine ⟨s.memWriteList_wf hw _ _, memRead_memWriteList_inside hw _ _ hl, fun a ha hout => ?_⟩
  rw [s.memRead_memWriteList hw _ _ hl, List.getD_eq_default]
  simp only [Config.memSize]
  omega

/-- Settles O53: a program that fits is the list of bytes written. -/
theorem programLoad : Obligations.ProgramLoad := by
  refine ⟨fun s bytes rest hw ht hs hl => ?_, fun s bytes rest ht hs hl => ?_, fun s bytes rest ht hr => ?_⟩
  · obtain ⟨hwf, hin, hout⟩ := memWriteList_progBase hw hl
    exact ⟨_, step_load_fits ht hs hl, hwf, hin, hout⟩
  · rw [step_load_stopped ht hs, loadProgram_too_long _ hl]
  · exact (step_of_host_turn s _ rest ht).trans (if_pos hr)

end Sys2Proof.Machine
end

section
/-! PROOFS. Power-on and boot (10_state.md R53; 70_reset_and_hazards.md R464, R466). -/

namespace Sys2Proof.Machine

theorem memRead_reset {a : Nat} (h : a < 4096) : State.reset.memRead a = Config.fontLo.getD a 0 :=
  congrArg (Config.fontLo.getD · 0) (Nat.mod_eq_of_lt h)

theorem fontLo_length : Config.fontLo.length = 80 := rfl

/-- Settles O55: memory lists nothing, so it reads as the font and zeros. -/
theorem powerOnValues : Obligations.PowerOnValues := by
  refine ⟨fun a ha => memRead_reset (by omega), fun a ha hlt => ?_, fun r => ⟨?_, ?_, ?_, ?_⟩, rfl, rfl, rfl, rfl, rfl,
    rfl, Framebuffer.blank_AllOff .lo true, rfl, rfl, rfl, rfl⟩
  · rw [memRead_reset hlt, List.getD_eq_default _ _ (by rw [fontLo_length]; exact ha)]
  all_goals simp [State.reset, Vector.get_eq_getElem]

/-- A run that begins with a step that goes on, and what follows it. -/
theorem run_of_step {k : Nat} {s t u : State} (h : step s = .next t) (hr : core.run k t = .next u) :
    core.run (k + 1) s = .next u :=
  (run_succ k s t h).trans hr

/-- Load, start and begin: three steps from a stopped engine with no request to the first fetch. -/
theorem run_boot {s : State} {bytes : List Byte} (ht : s.turns = [.host (.load bytes), .host .start])
    (hi : s.status = .idle) (hp : s.place = .top) (ha : s.acc < Config.ioPeriod) (hc : s.cancelRequested = false)
    (hq : s.resetQueued = false) (hl : bytes.length ≤ 3584) :
    core.run 3 s = .next { s with
      turns := [], mem := (s.memWriteList 0x200 bytes).mem, status := .running, place := .step } := by
  exact run_of_step (step_load_fits ht (by simp [hi]) hl) <| run_of_step (startAndCancel.1 _ _ rfl hi) <|
    run_of_step (step_begin_plain rfl rfl hp ha hc hq) rfl

/-- Settles O54: the word at 0x200 is the first two bytes of the program loaded. -/
theorem bootReachesFirstFetch : Obligations.BootReachesFirstFetch := by
  intro hi lo rest hl
  have hlen : (hi :: lo :: rest).length ≤ 3584 := by simp only [List.length_cons]; omega
  obtain ⟨hwf, hin, hout⟩ := memWriteList_progBase
    (s := { State.reset with turns := [.host (.load (hi :: lo :: rest)), .host .start] }) powerOnMeetsInvariant.1 hlen
  exact ⟨_, _, run_boot rfl rfl rfl ioPeriod_pos rfl rfl hlen, rfl, ⟨rfl, rfl, rfl⟩, rfl,
    congrArg₂ joinBytes (hin 0 (by simp)) (hin 1 (by simp)), hwf, hin, hout⟩

end Sys2Proof.Machine
end

section
/-! PROOFS. Runs through a queued reset (60_exceptions.md R447; 43_index_memory.md R309; 44_timers_keys.md R356). -/

namespace Sys2Proof.Machine

/-- A listed core turn on an instruction that leaves the engine running. -/
theorem step_core_turn_instr {s t : State} {i : Instr} {rest : List Turn} (ht : s.turns = .core :: rest)
    (hr : s.status = .running) (hp : s.place = .step) (hd : decodeWord (s.wordAt s.pc) = .ok i)
    (he : exec i { s with turns := rest, pc := s.pc + 2 } = .next t) (hs : t.status = .running) :
    step s = .next { t with place := .clock } :=
  (step_of_core_turn s rest ht).trans
    ((coreTransition_cpuStep { s with turns := rest } hr hp).trans
      (cpuStep_runs_on (s := { s with turns := rest }) hd he hs))

theorem step_core_turn_ldVxK {s : State} {rest : List Turn} {x : Reg} {k : Key} (ht : s.turns = .core :: rest)
    (hr : s.status = .running) (hp : s.place = .step) (hd : decodeWord (s.wordAt s.pc) = .ok (.ldVxK x))
    (hk : firstKeyDown s.key = some k) : step s = .next { s with
      turns := rest, pc := s.pc + 2, v := s.v.set x.val (BitVec.ofNat 8 k.val), place := .clock } :=
  step_core_turn_instr ht hr hp hd (exec_ldVxK_of_key (s := { s with turns := rest, pc := s.pc + 2 }) hk x) hr

/-- The state after a CPU step that ran FX75. -/
def State.savedFlags (s : State) (x : Reg) (rest : List Turn) : State :=
  { s with turns := rest, pc := s.pc + 2, uf := mergeRange x s.v.get s.uf, place := .clock }

theorem step_core_turn_saveFlags {s : State} {rest : List Turn} {x : Reg} (ht : s.turns = .core :: rest)
    (hr : s.status = .running) (hp : s.place = .step) (hd : decodeWord (s.wordAt s.pc) = .ok (.saveFlags x)) :
    step s = .next (s.savedFlags x rest) :=
  step_core_turn_instr ht hr hp hd (exec_saveFlags x { s with turns := rest, pc := s.pc + 2 }) hr

theorem step_restoreFlags {s : State} {x : Reg} (hf : s.Fetching)
    (hd : decodeWord (s.wordAt s.pc) = .ok (.restoreFlags x)) :
    step s = .next { s with pc := s.pc + 2, v := mergeRange x s.uf.get s.v, place := .clock } := by
  have hr : s.status = .running := hf.2.1
  rw [step_fetching hf]
  exact cpuStep_runs_on (t := { s with pc := s.pc + 2, v := mergeRange x s.uf.get s.v }) hd (exec_restoreFlags x _) hr

theorem get_replicate {α : Type} (a : α) (k : Fin 16) : (Vector.replicate 16 a).get k = a := by
  simp [Vector.get_eq_getElem]

/-- With no key down, the key delivered is the first one found. -/
theorem firstKeyDown_delivered (k : Key) : firstKeyDown ((Vector.replicate 16 false).set k.val true) = some k := by
  refine firstKeyDown_eq_some ?_ fun j hj => ?_
  · rw [get_set_entry _ _ k.isLt, if_pos rfl]
  · rw [get_set_entry _ _ k.isLt, if_neg (Nat.ne_of_lt hj), get_replicate]

/-- The start of an iteration with a reset queued, with what a program can see of the state it leaves. -/
theorem begins_after_reset {s : State} (hr : s.status = .running) (hp : s.place = .top) (ha : s.acc < Config.ioPeriod)
    (hc : s.cancelRequested = false) (hq : s.resetQueued = true) : ∃ t, coreTransition s = .next t ∧
      t.status = .running ∧ t.place = .step ∧ t.turns = s.turns ∧ t.mem = s.mem ∧ t.pc = 0x200 ∧
      t.v = Vector.replicate 16 0 ∧ t.key = Vector.replicate 16 false ∧ t.uf = s.uf := by
  obtain ⟨fb, -, -, -, hreset⟩ := s.reinitialise_ResetTo
  refine ⟨_, coreTransition_begin_reset hr hp ha hc hq, ?_⟩
  rw [hreset]
  exact ⟨if_pos hr, rfl, rfl, rfl, rfl, rfl, rfl, rfl⟩

/-- Settles O59: the three steps one by one, from the state the reset leaves. -/
theorem iterationBeginsBeforeItsCpuStep : Obligations.IterationBeginsBeforeItsCpuStep := by
  refine ⟨fun s ht hr hp ha hc hq => step_begin_plain ht hr hp ha hc hq, fun s k x ht hr hp ha hc hq hd => ?_⟩
  obtain ⟨t, hbegin, htr, htp, htt, hmem, hpc, hv, hkey, -⟩ :=
    begins_after_reset (s := { s with turns := [.host (.keySet k true), .core] }) hr hp ha hc hq
  have hword : t.wordAt t.pc = s.wordAt 0x200 := by rw [hpc]; exact wordAt_of_mem_eq hmem _
  have hfirst : firstKeyDown (t.key.set k.val true) = some k := by rw [hkey]; exact firstKeyDown_delivered k
  have begins : step s = .next t := (step_of_core_turn s _ ht).trans hbegin
  have delivers : step t = .next { t with turns := [.core], key := t.key.set k.val true } :=
    step_of_host_turn t (.keySet k true) [.core] htt
  have fetches := step_core_turn_ldVxK (s := { t with turns := [.core], key := t.key.set k.val true }) rfl htr htp
    (hword ▸ hd) hfirst
  refine ⟨_, run_of_step begins (run_of_step delivers (run_of_step fetches rfl)), by rw [hpc]; rfl, ?_, ?_, ?_⟩
  · rw [State.get_set_v, if_pos rfl, toNat_ofNat_key]
  · intro r hr
    rw [State.get_set_v, if_neg hr, hv, get_replicate]
  · intro j
    rw [get_set_entry _ _ k.isLt, hkey, get_replicate]
    simp [Fin.ext_iff]

/-- The registers after FX75, a reset and FX85. -/
theorem restored_registers (x : Reg) (v uf : Vector Byte 16) :
    (∀ k : Reg, k ≤ x → (mergeRange x (mergeRange x v.get uf).get (Vector.replicate 16 0)).get k = v.get k) ∧
    ∀ k : Reg, x < k → (mergeRange x (mergeRange x v.get uf).get (Vector.replicate 16 0)).get k = 0 := by
  obtain ⟨hin, hout⟩ := mergeRange_spec x (mergeRange x v.get uf).get (Vector.replicate 16 0)
  obtain ⟨hsaved, -⟩ := mergeRange_spec x v.get uf
  exact ⟨fun k hk => (hin k hk).trans (hsaved k hk), fun k hk => (hout k hk).trans (get_replicate 0 k)⟩

/-- Settles O35: the reset keeps the user flags, in one piece and in the five steps of a run. -/
theorem userFlagsSurviveReset : Obligations.UserFlagsSurviveReset := by
  refine ⟨fun x s t r u hs hreset hu => ?_, fun x s r rest ht hf hc hread ha hd hd' => ?_⟩
  · cases (exec_saveFlags x s).symm.trans hs
    obtain ⟨fb, -, -, -, rfl⟩ := hreset
    cases (exec_restoreFlags x _).symm.trans hu
    exact restored_registers x s.v s.uf
  · obtain ⟨-, hr, hp⟩ := hf
    have saves := step_core_turn_saveFlags ht hr hp hd
    have queues := step_reset_running (s := s.savedFlags x [.host .reset]) rfl hr
    have reads := step_clock_supplied (s := { s.savedFlags x [] with resetQueued := true }) rfl hr rfl hread
    obtain ⟨t, hbegin, htr, htp, htt, hmem, hpc, hv, -, huf⟩ := begins_after_reset (s := { s.savedFlags x [] with
      resetQueued := true, acc := s.acc + r.seconds, place := .top, readings := rest, draws := s.draws + 1 })
      hr rfl ha hc rfl
    have begins := (step_of_no_turns _ rfl).trans hbegin
    have hword : t.wordAt t.pc = s.wordAt 0x200 := by rw [hpc]; exact wordAt_of_mem_eq hmem _
    have restores := step_restoreFlags ⟨htt, htr, htp⟩ (hword ▸ hd')
    have run := run_of_step begins (run_of_step (k := 0) restores rfl)
    refine ⟨_, run_of_step saves (run_of_step queues (run_of_step reads run)), htr, by rw [hpc]; rfl, ?_⟩
    rw [hv, huf]
    exact restored_registers x s.v s.uf

end Sys2Proof.Machine
end
